-- ==== Sys2Proof/Word.lean ====
section
/-! DEFINITION. The widths of the machine: Word, cell, slot. -/

namespace Sys2Proof

/-- A Word: 32 bits (R5 WORD_BITS, R8). Its unsigned reading u(w) is `w.toNat`, its signed reading s(w) is `w.toInt`. -/
abbrev Word := BitVec 32

/-- 16 bits: a memory cell (R50), the content of an address register (R21), the instruction pointer (R25),
the flag register (R26), the address/offset slot of an instruction (R80). -/
abbrev Half := BitVec 16

/-- An 8-bit operand slot of an instruction (R80); as a register operand it is the index of an address register (R21, R86). -/
abbrev Slot := BitVec 8

/-- The index of an address register, 0..255 (R21). -/
abbrev Reg := Slot

end Sys2Proof
end

