-- ==== Sys2Proof/Syntax.lean ====
section
/-! DEFINITION. The instructions: one constructor per row of spec/opcode_table.json (R87). -/

namespace Sys2Proof

/-- The operand of a jump: the addressing mode in slot `s1` with what that mode reads of the rest (R84, R194). -/
inductive Target where
  /-- mode 0, absolute (R195) -/
  | abs (addr : Half)
  /-- mode 1, absolute-indirect (R196) -/
  | ind (addr : Half)
  /-- mode 2, register-indirect-sum: `s2`, `s3` (R197) -/
  | sum (ra rb : Reg)
  /-- mode 3, relative: a signed offset in cells (R198) -/
  | rel (off : Half)
  /-- any other mode: a legal encoding that faults when the jump is taken (R199); bits 31:16 are not read -/
  | illegal (mode : Slot)
deriving DecidableEq, Repr

/-- The instruction set (R87). Operands in the order of R106: destination first. -/
inductive Instr where
  /-- R113 -/
  | halt
  /-- R200 -/
  | jmp (t : Target)
  /-- R202 -/
  | ije (t : Target)
  /-- R203 -/
  | ijg (t : Target)
  /-- R204 -/
  | ijl (t : Target)
  /-- R205 -/
  | ijne (t : Target)
  /-- R206 -/
  | ijge (t : Target)
  /-- R207 -/
  | ijle (t : Target)
  /-- R208 -/
  | uje (t : Target)
  /-- R209 -/
  | ujg (t : Target)
  /-- R210 -/
  | ujl (t : Target)
  /-- R211 -/
  | ujne (t : Target)
  /-- R212 -/
  | ujge (t : Target)
  /-- R213 -/
  | ujle (t : Target)
  /-- R214 -/
  | fje (t : Target)
  /-- R215 -/
  | fjg (t : Target)
  /-- R216 -/
  | fjl (t : Target)
  /-- R217 -/
  | fjne (t : Target)
  /-- R218 -/
  | fjge (t : Target)
  /-- R219 -/
  | fjle (t : Target)
  /-- R131 -/
  | lda (r : Reg) (addr : Half)
  /-- R132 -/
  | mov (d s : Reg)
  /-- R133 -/
  | ldp (d s : Reg)
  /-- R143 -/
  | iadd (d a b : Reg)
  /-- R144 -/
  | isub (d a b : Reg)
  /-- R174 -/
  | fadd (d a b : Reg)
  /-- R175 -/
  | fsub (d a b : Reg)
  /-- R145 -/
  | imul (d a b : Reg)
  /-- R146 -/
  | umul (d a b : Reg)
  /-- R176 -/
  | fmul (d a b : Reg)
  /-- R148 -/
  | idiv (d a b : Reg)
  /-- R149 -/
  | udiv (d a b : Reg)
  /-- R178 -/
  | fdiv (d a b : Reg)
  /-- R150 -/
  | imod (d a b : Reg)
  /-- R151 -/
  | umod (d a b : Reg)
  /-- R152 -/
  | inc (r : Reg)
  /-- R153 -/
  | dec (r : Reg)
  /-- R154 -/
  | ineg (r : Reg)
  /-- R179 -/
  | fneg (r : Reg)
  /-- R191 -/
  | icmp (a b : Reg)
  /-- R192 -/
  | ucmp (a b : Reg)
  /-- R193 -/
  | fcmp (a b : Reg)
  /-- R231 -/
  | and (d a b : Reg)
  /-- R232 -/
  | or (d a b : Reg)
  /-- R233 -/
  | xor (d a b : Reg)
  /-- R234 -/
  | not (r : Reg)
  /-- R241 -/
  | getf (r : Reg) (k : Half)
  /-- R242 -/
  | setf (r : Reg) (k : Half)
  /-- R264 -/
  | iread (r : Reg)
  /-- R265 -/
  | uread (r : Reg)
  /-- R266 -/
  | fread (r : Reg)
  /-- R269 -/
  | iprint (r : Reg)
  /-- R270 -/
  | uprint (r : Reg)
  /-- R271 -/
  | fprint (r : Reg)
  /-- R251 -/
  | call (addr : Half)
  /-- R252 -/
  | ret
deriving DecidableEq, Repr

end Sys2Proof
end

