-- ==== Sys2Proof/WellFormed.lean ====
section
/-! DEFINITION. Which terms of `Instr` stand for an encoding. -/

namespace Sys2Proof

/-- The one check: `illegal` is for the modes 4..255, so that every mode has exactly one term (R194, R199).
Every register index, address, offset and flag index that fits its slot is an encoding (R93). -/
def Target.wellFormed : Target → Bool
  | .abs _ => true
  | .ind _ => true
  | .sum _ _ => true
  | .rel _ => true
  | .illegal m => decide (3 < m.toNat)

/-- The operand of a jump-class instruction (opcodes 1..19), if it is one (R84, R87). -/
def Instr.target? : Instr → Option Target
  | .jmp t | .ije t | .ijg t | .ijl t | .ijne t | .ijge t | .ijle t
  | .uje t | .ujg t | .ujl t | .ujne t | .ujge t | .ujle t
  | .fje t | .fjg t | .fjl t | .fjne t | .fjge t | .fjle t => some t
  | .halt | .lda _ _ | .mov _ _ | .ldp _ _
  | .iadd _ _ _ | .isub _ _ _ | .fadd _ _ _ | .fsub _ _ _ | .imul _ _ _ | .umul _ _ _ | .fmul _ _ _
  | .idiv _ _ _ | .udiv _ _ _ | .fdiv _ _ _ | .imod _ _ _ | .umod _ _ _
  | .inc _ | .dec _ | .ineg _ | .fneg _ | .icmp _ _ | .ucmp _ _ | .fcmp _ _
  | .and _ _ _ | .or _ _ _ | .xor _ _ _ | .not _ | .getf _ _ | .setf _ _
  | .iread _ | .uread _ | .fread _ | .iprint _ | .uprint _ | .fprint _ | .call _ | .ret => none

/-- An instruction is well-formed when its jump operand, if it has one, is. -/
def Instr.wellFormed (i : Instr) : Bool :=
  match i.target? with
  | some t => t.wellFormed
  | none => true

end Sys2Proof
end

