-- ==== Sys2Proof/Decode.lean ====
section
/-! DEFINITION. From a Word to an instruction (R80 to R95), and back. -/

namespace Sys2Proof

/-- `op = w[7:0]` (R80). -/
def opField (w : Word) : Slot := w.extractLsb' 0 8
/-- `s1 = w[15:8]` (R80). -/
def s1 (w : Word) : Slot := w.extractLsb' 8 8
/-- `s2 = w[23:16]` (R80). -/
def s2 (w : Word) : Slot := w.extractLsb' 16 8
/-- `s3 = w[31:24]` (R80). -/
def s3 (w : Word) : Slot := w.extractLsb' 24 8
/-- `a16 = w[31:16]`, which overlays `s2` and `s3` (R80). -/
def a16 (w : Word) : Half := w.extractLsb' 16 16

/-- Format J (R84): the mode is the whole of `s1`; modes 0, 1, 3 read `a16`, mode 2 reads `s2` and `s3` (R194 to R199). -/
def decodeTarget (w : Word) : Target :=
  match (s1 w).toNat with
  | 0 => .abs (a16 w)
  | 1 => .ind (a16 w)
  | 2 => .sum (s2 w) (s3 w)
  | 3 => .rel (a16 w)
  | _ => .illegal (s1 w)

/-- Why a Word is no instruction. -/
inductive DecodeError where
  /-- opcodes 56..255 are reserved (R92) -/
  | reservedOpcode (op : Slot)
deriving DecidableEq, Repr

/-- The decoding procedure (R95): only `op` selects the row of R87; bits a row does not name are ignored (R90). -/
def decode (w : Word) : Except DecodeError Instr :=
  match (opField w).toNat with
  | 0 => .ok .halt
  | 1 => .ok (.jmp (decodeTarget w))
  | 2 => .ok (.ije (decodeTarget w))
  | 3 => .ok (.ijg (decodeTarget w))
  | 4 => .ok (.ijl (decodeTarget w))
  | 5 => .ok (.ijne (decodeTarget w))
  | 6 => .ok (.ijge (decodeTarget w))
  | 7 => .ok (.ijle (decodeTarget w))
  | 8 => .ok (.uje (decodeTarget w))
  | 9 => .ok (.ujg (decodeTarget w))
  | 10 => .ok (.ujl (decodeTarget w))
  | 11 => .ok (.ujne (decodeTarget w))
  | 12 => .ok (.ujge (decodeTarget w))
  | 13 => .ok (.ujle (decodeTarget w))
  | 14 => .ok (.fje (decodeTarget w))
  | 15 => .ok (.fjg (decodeTarget w))
  | 16 => .ok (.fjl (decodeTarget w))
  | 17 => .ok (.fjne (decodeTarget w))
  | 18 => .ok (.fjge (decodeTarget w))
  | 19 => .ok (.fjle (decodeTarget w))
  | 20 => .ok (.lda (s1 w) (a16 w))
  | 21 => .ok (.mov (s1 w) (s2 w))
  | 22 => .ok (.ldp (s1 w) (s2 w))
  | 23 => .ok (.iadd (s1 w) (s2 w) (s3 w))
  | 24 => .ok (.isub (s1 w) (s2 w) (s3 w))
  | 25 => .ok (.fadd (s1 w) (s2 w) (s3 w))
  | 26 => .ok (.fsub (s1 w) (s2 w) (s3 w))
  | 27 => .ok (.imul (s1 w) (s2 w) (s3 w))
  | 28 => .ok (.umul (s1 w) (s2 w) (s3 w))
  | 29 => .ok (.fmul (s1 w) (s2 w) (s3 w))
  | 30 => .ok (.idiv (s1 w) (s2 w) (s3 w))
  | 31 => .ok (.udiv (s1 w) (s2 w) (s3 w))
  | 32 => .ok (.fdiv (s1 w) (s2 w) (s3 w))
  | 33 => .ok (.imod (s1 w) (s2 w) (s3 w))
  | 34 => .ok (.umod (s1 w) (s2 w) (s3 w))
  | 35 => .ok (.inc (s3 w))
  | 36 => .ok (.dec (s3 w))
  | 37 => .ok (.ineg (s3 w))
  | 38 => .ok (.fneg (s3 w))
  | 39 => .ok (.icmp (s2 w) (s3 w))
  | 40 => .ok (.ucmp (s2 w) (s3 w))
  | 41 => .ok (.fcmp (s2 w) (s3 w))
  | 42 => .ok (.and (s1 w) (s2 w) (s3 w))
  | 43 => .ok (.or (s1 w) (s2 w) (s3 w))
  | 44 => .ok (.xor (s1 w) (s2 w) (s3 w))
  | 45 => .ok (.not (s3 w))
  | 46 => .ok (.getf (s1 w) (a16 w))
  | 47 => .ok (.setf (s1 w) (a16 w))
  | 48 => .ok (.iread (s3 w))
  | 49 => .ok (.uread (s3 w))
  | 50 => .ok (.fread (s3 w))
  | 51 => .ok (.iprint (s3 w))
  | 52 => .ok (.uprint (s3 w))
  | 53 => .ok (.fprint (s3 w))
  | 54 => .ok (.call (a16 w))
  | 55 => .ok .ret
  | _ => .error (.reservedOpcode (opField w))

/-- The opcode number of an instruction (R87). -/
def Instr.opcode : Instr → Slot
  | .halt => 0
  | .jmp _ => 1
  | .ije _ => 2
  | .ijg _ => 3
  | .ijl _ => 4
  | .ijne _ => 5
  | .ijge _ => 6
  | .ijle _ => 7
  | .uje _ => 8
  | .ujg _ => 9
  | .ujl _ => 10
  | .ujne _ => 11
  | .ujge _ => 12
  | .ujle _ => 13
  | .fje _ => 14
  | .fjg _ => 15
  | .fjl _ => 16
  | .fjne _ => 17
  | .fjge _ => 18
  | .fjle _ => 19
  | .lda _ _ => 20
  | .mov _ _ => 21
  | .ldp _ _ => 22
  | .iadd _ _ _ => 23
  | .isub _ _ _ => 24
  | .fadd _ _ _ => 25
  | .fsub _ _ _ => 26
  | .imul _ _ _ => 27
  | .umul _ _ _ => 28
  | .fmul _ _ _ => 29
  | .idiv _ _ _ => 30
  | .udiv _ _ _ => 31
  | .fdiv _ _ _ => 32
  | .imod _ _ _ => 33
  | .umod _ _ _ => 34
  | .inc _ => 35
  | .dec _ => 36
  | .ineg _ => 37
  | .fneg _ => 38
  | .icmp _ _ => 39
  | .ucmp _ _ => 40
  | .fcmp _ _ => 41
  | .and _ _ _ => 42
  | .or _ _ _ => 43
  | .xor _ _ _ => 44
  | .not _ => 45
  | .getf _ _ => 46
  | .setf _ _ => 47
  | .iread _ => 48
  | .uread _ => 49
  | .fread _ => 50
  | .iprint _ => 51
  | .uprint _ => 52
  | .fprint _ => 53
  | .call _ => 54
  | .ret => 55

/-- Format A (R81): `w = op + 2^8*s1 + 2^16*s2 + 2^24*s3`. -/
def formatA (op f1 f2 f3 : Slot) : Word := f3 ++ f2 ++ f1 ++ op

/-- Format B (R82): `w = op + 2^8*s1 + 2^16*a16`. -/
def formatB (op f1 : Slot) (v : Half) : Word := v ++ f1 ++ op

/-- Format J (R84): format B with the mode in `s1`, but for mode 2, which is format A. -/
def formatJ (op : Slot) : Target → Word
  | .abs addr => formatB op 0 addr
  | .ind addr => formatB op 1 addr
  | .sum ra rb => formatA op 2 ra rb
  | .rel off => formatB op 3 off
  | .illegal mode => formatB op mode 0

/-- The Word of an instruction, unused fields written as 0 (R89, R90). -/
def encode (i : Instr) : Word :=
  match i with
  | .halt => formatA 0 0 0 0
  | .jmp t => formatJ 1 t
  | .ije t => formatJ 2 t
  | .ijg t => formatJ 3 t
  | .ijl t => formatJ 4 t
  | .ijne t => formatJ 5 t
  | .ijge t => formatJ 6 t
  | .ijle t => formatJ 7 t
  | .uje t => formatJ 8 t
  | .ujg t => formatJ 9 t
  | .ujl t => formatJ 10 t
  | .ujne t => formatJ 11 t
  | .ujge t => formatJ 12 t
  | .ujle t => formatJ 13 t
  | .fje t => formatJ 14 t
  | .fjg t => formatJ 15 t
  | .fjl t => formatJ 16 t
  | .fjne t => formatJ 17 t
  | .fjge t => formatJ 18 t
  | .fjle t => formatJ 19 t
  | .lda r v => formatB 20 r v
  | .mov d s => formatA 21 d s 0
  | .ldp d s => formatA 22 d s 0
  | .iadd d a b => formatA 23 d a b
  | .isub d a b => formatA 24 d a b
  | .fadd d a b => formatA 25 d a b
  | .fsub d a b => formatA 26 d a b
  | .imul d a b => formatA 27 d a b
  | .umul d a b => formatA 28 d a b
  | .fmul d a b => formatA 29 d a b
  | .idiv d a b => formatA 30 d a b
  | .udiv d a b => formatA 31 d a b
  | .fdiv d a b => formatA 32 d a b
  | .imod d a b => formatA 33 d a b
  | .umod d a b => formatA 34 d a b
  | .inc r => formatA 35 0 0 r
  | .dec r => formatA 36 0 0 r
  | .ineg r => formatA 37 0 0 r
  | .fneg r => formatA 38 0 0 r
  | .icmp a b => formatA 39 0 a b
  | .ucmp a b => formatA 40 0 a b
  | .fcmp a b => formatA 41 0 a b
  | .and d a b => formatA 42 d a b
  | .or d a b => formatA 43 d a b
  | .xor d a b => formatA 44 d a b
  | .not r => formatA 45 0 0 r
  | .getf r v => formatB 46 r v
  | .setf r v => formatB 47 r v
  | .iread r => formatA 48 0 0 r
  | .uread r => formatA 49 0 0 r
  | .fread r => formatA 50 0 0 r
  | .iprint r => formatA 51 0 0 r
  | .uprint r => formatA 52 0 0 r
  | .fprint r => formatA 53 0 0 r
  | .call v => formatB 54 0 v
  | .ret => formatA 55 0 0 0

/-- The 32 bits that an instruction of `nbits` bits has when every bit above is 0: bit 0 is bit 0 of the Word (R80). -/
def tableWord (nbits w : Nat) : Word := BitVec.ofNat 32 (w % 2 ^ nbits)

/-- What the decoder reads from an instruction whose bits are `w`; `none` where it refuses. -/
def decodeTableWord (nbits w : Nat) : Option Instr :=
  match decode (tableWord nbits w) with
  | .ok i => some i
  | .error _ => none

end Sys2Proof
end

