-- ==== Sys2Proof/Config.lean ====
section
/-! DEFINITION. What the spec leaves open and no rule decides (R6, open parameters of 92_eei_decisions.md): free values. -/

namespace Sys2Proof

/-- The float operations whose result can be a NaN chosen by `NAN_RESULT` (R173); `FNEG` is outside it (R179). -/
inductive FloatOp where
  | fadd
  | fsub
  | fmul
  | fdiv
deriving DecidableEq, Repr

/-- `NAN_RESULT(op, wa, wb)` (R6, R173, U16): open. No body: nothing constrains it here; the Word that is written passes
through `Sys2Proof.Machine.nanResult`, which keeps the one constraint of R173 (it is a NaN). Log entry 8. -/
opaque Config.nanChoice : FloatOp → Word → Word → Word

/-- `RENDER_FLOAT(w)`, the text of a printed float without its line terminator (R6, R268, U17): open. Log entry 9. -/
opaque Config.renderFloat : Word → String

/-- Whether a console line of kind `F` that writes the real 0 with a minus sign, such as `-0.0`, parses to -0 (true) or +0: both are
nearest to it, and R261 says no more. Log entry 17. -/
opaque Config.minusZeroSign : List Char → Bool

end Sys2Proof
end

