-- ==== Sys2Proof/Machine/State.lean ====
section
/-! DEFINITION. The state of the machine (R20), its reset value (R38), and the reasons a step stops. -/

namespace Sys2Proof.Machine

/-- The causes of a machine fault, in the order of their codes 1..5 (R281). -/
inductive Cause where
  | illegalOpcode
  | illegalOperand
  | memBounds
  | fetchBounds
  | inputError
deriving DecidableEq, Repr

/-- The run state (R32); `faulted` carries the fault record (R33). -/
inductive Run where
  | running
  | halted
  | faulted (cause : Cause) (info : Half)
deriving DecidableEq, Repr

/-- The numeric interpretation a console instruction asks for: `I`, `U`, `F` (R260). -/
inductive Kind where
  | signed
  | unsigned
  | float
deriving DecidableEq, Repr

/-- A token of the input stream (R260). -/
inductive Token where
  /-- the line parsed to this Word -/
  | ok (w : Word)
  /-- the line did not parse, or the input ended -/
  | bad
deriving DecidableEq, Repr

/-- An output event `(kind, w)` (R260, R267). -/
structure Event where
  kind : Kind
  word : Word
deriving DecidableEq, Repr

/-- The cells of `MEM` that are not zero, as (address, cell) pairs; the form is `Memory.wf` in Machine/Ops.lean.
The spec's smallest addressable unit is the 16-bit cell (R50), so a pair holds a cell. Log entry 1. -/
abbrev Memory := List (Nat × Half)

/-- The complete state (R20). -/
structure State where
  /-- the 256 address registers `x[0..255]` (R21) -/
  x : Vector Half 256
  /-- the instruction pointer (R25) -/
  pc : Half
  /-- the flag register (R26) -/
  flags : Half
  /-- the hidden stack pointer (R31) -/
  sp : BitVec 4
  /-- the run state and fault record (R32, R33) -/
  run : Run
  /-- the memory (R34) -/
  mem : Memory
  /-- `IN`, the console input tokens not yet consumed (R35) -/
  input : List Token
  /-- `OUT`, the console output events, the first event first (R35) -/
  output : List Event
deriving DecidableEq, Repr

/-- Why the core has no step. Machine faults of R281 are no members: they are next states whose `run` is `faulted`. -/
inductive Fault where
  /-- raised by `step` alone, at a core whose `RUN` is `halted`: R110 gives it no step. Safe: the model stops where the
  machine stops. -/
  | coreHalted
  /-- raised by `step` alone, at a core whose `RUN` is `faulted`: R110 gives it no step. Safe, as `coreHalted`. -/
  | coreFaulted (cause : Cause) (info : Half)
  /-- raised by the three console reads where `IN` is empty: the core runs on but has no step until a token arrives, when the same
  read executes (R117, R263). Safe: the model has no step where the machine has none. -/
  | coreBlocked
deriving DecidableEq, Repr

/-- What is not performed. -/
inductive Refusal where
  /-- raised by an arm of `exec` whose instruction has no meaning yet; no arm does. Safe: nothing is claimed of it. -/
  | notModelled (mnemonic : String)
  /-- raised by the host operations alone, while the core is running (R320, U23). Safe: the spec refuses it too. -/
  | hostWhileRunning
  /-- raised by the host's memory accesses alone, at an address above 32766 (R67, R321, U23). Safe: the spec refuses it too. -/
  | hostAddress
deriving DecidableEq, Repr

/-- The machine right after reset (R38, R310). The list is empty because every cell is 0x0000. `IN` is the environment's;
the model starts it empty (log entry 6). -/
def State.reset : State where
  x := Vector.replicate 256 0
  pc := 0
  flags := 0
  sp := 0
  run := .halted
  mem := []
  input := []
  output := []

end Sys2Proof.Machine
end

