-- ==== Sys2Proof/Machine/Ops.lean ====
section
/-! DEFINITION. The named operations over memory, registers and run state; taking a machine fault; the call stack. -/

namespace Sys2Proof.Machine

/-- What an instruction or a step answers. -/
abbrev Result := Host.Outcome State Fault Refusal

/-! Halves of a Word. -/

/-- `lo(w) = w[15:0]` (R8). -/
def lo (w : Word) : Half := w.extractLsb' 0 16

/-- `hi(w) = w[31:16]` (R8). -/
def hi (w : Word) : Half := w.extractLsb' 16 16

/-! Memory: cells first, Words from cells. -/

/-- The cell at an address; an unlisted one reads 0x0000 (R38). -/
def Memory.cell : Memory → Nat → Half
  | [], _ => 0#16
  | (b, u) :: m, a => if a = b then u else Memory.cell m a

/-- Write one cell, keeping the canonical form (`MemWrite` with `n = 1`, R53). -/
def Memory.setCell : Memory → Nat → Half → Memory
  | [], a, v => if v = 0#16 then [] else [(a, v)]
  | (b, u) :: m, a, v =>
    if a < b then (if v = 0#16 then (b, u) :: m else (a, v) :: (b, u) :: m)
    else if a = b then (if v = 0#16 then m else (a, v) :: m)
    else (b, u) :: Memory.setCell m a v

/-- From address `low` on: addresses rise, lie below 32768 (R50), and no listed cell is zero. -/
def Memory.wfFrom (low : Nat) : Memory → Bool
  | [] => true
  | (a, v) :: m => decide (low ≤ a) && decide (a < 32768) && decide (v ≠ 0#16) && Memory.wfFrom (a + 1) m

/-- The canonical form of memory. -/
def Memory.wf (m : Memory) : Bool := Memory.wfFrom 0 m

/-- The Word whose low cell is at `a`, high cell at `a + 1` (`MemRead` with `n = 2`, R51, R52), without the bounds check. -/
def Memory.word (m : Memory) (a : Half) : Word := m.cell (a.toNat + 1) ++ m.cell a.toNat

/-- Write a Word, low half at `a`, high half at `a + 1` (`MemWrite` with `n = 2`, R51, R53), without the bounds check. -/
def Memory.setWord (m : Memory) (a : Half) (w : Word) : Memory :=
  (m.setCell a.toNat (lo w)).setCell (a.toNat + 1) (hi w)

/-- A Word access at `a` is legal exactly when `a <= 32766` (R54). Odd addresses are legal (R55). -/
abbrev wordInRange (a : Half) : Prop := a.toNat ≤ 32766

/-- A one-cell access at `a` is legal exactly when `a <= 32767` (R52, R53 with `n = 1`). -/
abbrev cellInRange (a : Half) : Prop := a.toNat ≤ 32767

/-- `MemRead(addr, 2)` (R52); `none` stands for `raise MemBounds(addr)`. -/
def memRead (m : Memory) (a : Half) : Option Word :=
  if wordInRange a then some (m.word a) else none

/-- `MemRead(addr, 1)` (R52). -/
def memReadCell (m : Memory) (a : Half) : Option Half :=
  if cellInRange a then some (m.cell a.toNat) else none

/-- `MemWrite(addr, 2, v)` (R53); `none` stands for `raise MemBounds(addr)`, nothing written. -/
def memWrite (m : Memory) (a : Half) (w : Word) : Option Memory :=
  if wordInRange a then some (m.setWord a w) else none

/-- `MemWrite(addr, 1, v)` (R53). -/
def memWriteCell (m : Memory) (a : Half) (w : Word) : Option Memory :=
  if cellInRange a then some (m.setCell a.toNat (lo w)) else none

/-! State updates, one per field. -/

/-- `x[i]` (R9). -/
def State.reg (s : State) (i : Reg) : Half := s.x[i.toNat]'i.isLt

/-- `x[i] <- v` (R9). -/
def State.setReg (s : State) (i : Reg) (v : Half) : State := { s with x := s.x.set i.toNat v i.isLt }

/-- `pc <- t` (R9). -/
def State.setPc (s : State) (t : Half) : State := { s with pc := t }

/-- The whole flag register written. -/
def State.setFlags (s : State) (f : Half) : State := { s with flags := f }

/-- `SP <- p`. -/
def State.setSp (s : State) (p : BitVec 4) : State := { s with sp := p }

/-- `RUN <- r`. -/
def State.setRun (s : State) (r : Run) : State := { s with run := r }

/-- `MEM <- m`. -/
def State.setMem (s : State) (m : Memory) : State := { s with mem := m }

/-- `IN <- ts`. -/
def State.setInput (s : State) (ts : List Token) : State := { s with input := ts }

/-- `OUT <- es`. -/
def State.setOutput (s : State) (es : List Event) : State := { s with output := es }

/-- The Word at cell address `a`, where the access is legal. -/
def State.word (s : State) (a : Half) : Word := s.mem.word a

/-- The effective value `val(i)` of a register operand: the Word at the address the register holds (R22), where legal. -/
def State.val (s : State) (i : Reg) : Word := s.word (s.reg i)

/-- `setval(i, w)`: the Word written at the address the register holds; the register is not changed (R22). -/
def State.setVal (s : State) (i : Reg) (w : Word) : State := s.setMem (s.mem.setWord (s.reg i) w)

/-- `pc <- (pc + 2) mod 2^16` (R114). -/
def State.advance (s : State) : State := s.setPc (s.pc + 2)

/-! Faults and halting. -/

/-- The whole effect of a fault: `RUN <- faulted(cause, info)` (R116, R280, R282). `pc` stays at the faulting instruction and
is the third part of the record (R33); control goes nowhere (R286) and nothing returns from it (R287). -/
def State.takeFault (s : State) (c : Cause) (info : Half) : State := s.setRun (.faulted c info)

/-- The answer of an instruction that raises a fault: the faulted state (R110 step 6). Log entry 2. -/
def raise (s : State) (c : Cause) (info : Half) : Result := .next (s.takeFault c info)

/-- The code of a cause (R281). -/
def Cause.code : Cause → Nat
  | .illegalOpcode => 1
  | .illegalOperand => 2
  | .memBounds => 3
  | .fetchBounds => 4
  | .inputError => 5

/-- The fault record the host reads, `(cause, info, pc)` (R33, R282). -/
def State.faultRecord (s : State) : Option (Cause × Half × Half) :=
  match s.run with
  | .faulted c info => some (c, info, s.pc)
  | .running => none
  | .halted => none

/-! The return-address ring (R250). -/

/-- The register `x[240 + SP]` (R31). -/
def ringSlot (p : BitVec 4) : Reg := 240 + p.setWidth 8

/-- `push(v)`: `x[240 + SP] <- v`, then `SP <- (SP + 1) mod 16` (R250). -/
def State.push (s : State) (v : Half) : State := (s.setReg (ringSlot s.sp) v).setSp (s.sp + 1)

/-- `pop()`: `SP <- (SP - 1) mod 16`; the result is `x[240 + SP]`; the slot keeps its content (R250). -/
def State.pop (s : State) : Half × State := (s.reg (ringSlot (s.sp - 1)), s.setSp (s.sp - 1))

end Sys2Proof.Machine
end

