-- ==== Sys2Proof/Machine/Flags.lean ====
section
/-! DEFINITION. The flag register bit by bit (R27) and every flag computation. -/

namespace Sys2Proof.Machine

/-! Flag numbers (R12, R27). -/

/-- zero result -/
abbrev flagZ : Nat := 0
/-- parity of an integer result -/
abbrev flagP : Nat := 1
/-- signed compare: equal -/
abbrev flagSE : Nat := 2
/-- signed compare: greater -/
abbrev flagSG : Nat := 3
/-- unsigned compare: equal -/
abbrev flagUE : Nat := 4
/-- unsigned compare: greater -/
abbrev flagUG : Nat := 5
/-- float compare: equal -/
abbrev flagFE : Nat := 6
/-- float compare: greater -/
abbrev flagFG : Nat := 7
/-- sign of result -/
abbrev flagS : Nat := 8
/-- signed overflow -/
abbrev flagV : Nat := 9
/-- unsigned carry -/
abbrev flagC : Nat := 10
/-- float overflow -/
abbrev flagFO : Nat := 11
/-- division by zero attempted -/
abbrev flagDZ : Nat := 12

/-- `get_flag(index)` (R29). -/
def getFlag (f : Half) (k : Nat) : Bool := f.getLsbD k

/-- `set_flag(index, bool)`: one bit assigned, the other fifteen unchanged (R9, R29). -/
def setFlag (f : Half) (k : Nat) (b : Bool) : Half :=
  if b then f ||| (1#16 <<< k) else f &&& ~~~(1#16 <<< k)

/-- How many of the 32 bits are 1. -/
def onesCount (w : Word) : Nat := (List.range 32).countP fun i => w.getLsbD i

/-- `PARITY(r)`: an even number of 1 bits (R6, R141). Log entry 10. -/
def parity (r : Word) : Bool := onesCount r % 2 == 0

/-- `intflags(r)`: `Z`, `P`, `S` from an integer result (R141). -/
def intFlags (f : Half) (r : Word) : Half :=
  setFlag (setFlag (setFlag f flagZ (r == 0)) flagP (parity r)) flagS (r.getLsbD 31)

/-- `V` and `C`: the exact signed result `S` against s(r), the exact unsigned result `U` against u(r) (R142). -/
def overflowFlags (f : Half) (S U : Int) (r : Word) : Half :=
  setFlag (setFlag f flagV (S != r.toInt)) flagC (U != (r.toNat : Int))

/-- `C` alone, for `UMUL` (R146). -/
def carryFlag (f : Half) (U : Int) (r : Word) : Half :=
  setFlag f flagC (U != (r.toNat : Int))

/-- `FLAGS[DZ] <- (divisor = 0)` (R147, R178). -/
def divZeroFlag (f : Half) (isZero : Bool) : Half := setFlag f flagDZ isZero

/-- The two flags of a compare, equal and greater, of the pair that begins at bit `e` (R190). -/
def compareFlags (f : Half) (e : Nat) (equal greater : Bool) : Half :=
  setFlag (setFlag f e equal) (e + 1) greater

end Sys2Proof.Machine
end

