-- ==== Sys2Proof/Machine/Float.lean ====
section
/-! DEFINITION. IEEE-754 binary32 and binary64 as R170 defines them, exactly, over one unit 2^-1074; the float flags. -/

namespace Sys2Proof.Machine

/-- A datum of binary32 or binary64. A finite one is `(-1)^neg * q * 2^-1074`: 2^-1074 is binary64's smallest subnormal, so
every finite datum of either format is a whole number of it and `widen` (R170) is the identity. Log entry 19. -/
inductive Datum where
  | nan
  | inf (neg : Bool)
  | fin (neg : Bool) (q : Nat)
deriving DecidableEq, Repr

/-- `isNaN(w)`: `w[30:23] = 255 and w[22:0] != 0` (R170). -/
def isNaN (w : Word) : Bool := w.extractLsb' 23 8 == 255 && w.extractLsb' 0 23 != 0

/-- f(w): the binary32 datum of a Word (R8, R170). The unit of binary32, 2^-149, is 2^925 units of a `Datum`. -/
def datum (w : Word) : Datum :=
  let neg := w.getLsbD 31
  let e := (w.extractLsb' 23 8).toNat
  let m := (w.extractLsb' 0 23).toNat
  if e = 255 then (if m = 0 then .inf neg else .nan)
  else if e = 0 then .fin neg (m * 2 ^ 925)
  else .fin neg ((2 ^ 23 + m) * 2 ^ (e - 1) * 2 ^ 925)

/-- The quotient `n / d` to the nearest whole number, a tie to the even one. -/
def roundEven (n d : Nat) : Nat :=
  let q := n / d
  let r := n % d
  if 2 * r < d then q else if d < 2 * r then q + 1 else q + q % 2

/-- The exact magnitude `(n / d) * 2^-1074` to `p` significant bits, no finer than `2^g` units (gradual underflow), to nearest,
ties to even; a magnitude of `2^top` units or more becomes infinity (R170). -/
def roundTo (p g top : Nat) (neg : Bool) (n d : Nat) : Datum :=
  let e := max g ((n / d).log2 - (p - 1))
  let q := roundEven n (d * 2 ^ e) * 2 ^ e
  if q < 2 ^ top then .fin neg q else .inf neg

/-- RN53: rounding to binary64 (R170): 53 bits, unit 2^-1074, overflow at 2^1024. -/
def rn53 (neg : Bool) (n d : Nat) : Datum := roundTo 53 0 2098 neg n d

/-- RN24: rounding to binary32 (R170): 24 bits, unit 2^-149, overflow at 2^128. -/
def rn24 (neg : Bool) (n d : Nat) : Datum := roundTo 24 925 1202 neg n d

/-- The Word of a binary32 datum that is not a NaN (R170): sign, then exponent and fraction. -/
def wordOfDatum : Datum → Word
  | .nan => 0x7FC00000
  | .inf neg => BitVec.ofNat 32 (neg.toNat * 2 ^ 31 + 255 * 2 ^ 23)
  | .fin neg q =>
    let u := q / 2 ^ 925
    let e := u.log2 - 23
    BitVec.ofNat 32 (neg.toNat * 2 ^ 31 + e * 2 ^ 23 + u / 2 ^ e)

/-- `RN24(D)` of a binary64 datum: narrowing (R171, D18). A NaN stays a NaN, an infinity stays itself. -/
def narrow : Datum → Datum
  | .nan => .nan
  | .inf neg => .inf neg
  | .fin neg q => rn24 neg q 1

/-- The value of a finite datum in units, with its sign. -/
def signedUnits (neg : Bool) (q : Nat) : Int := if neg then -(q : Int) else q

/-- `a ==ieee b` (R170). -/
def Datum.eqIeee : Datum → Datum → Bool
  | .nan, _ => false
  | _, .nan => false
  | .inf a, .inf b => a == b
  | .inf _, .fin _ _ => false
  | .fin _ _, .inf _ => false
  | .fin a p, .fin b q => signedUnits a p == signedUnits b q

/-- `a <ieee b` (R170). -/
def Datum.ltIeee : Datum → Datum → Bool
  | .nan, _ => false
  | _, .nan => false
  | .inf a, .inf b => a && !b
  | .inf a, .fin _ _ => a
  | .fin _ _, .inf b => !b
  | .fin a p, .fin b q => decide (signedUnits a p < signedUnits b q)

/-- The datum with its sign flipped; a NaN stays a NaN. -/
def Datum.negate : Datum → Datum
  | .nan => .nan
  | .inf a => .inf (!a)
  | .fin a q => .fin (!a) q

/-- The binary64 sum `D` (R174): an exact zero sum of operands of opposite sign is +0, (-0) + (-0) is -0 (R170). -/
def addDatum : Datum → Datum → Datum
  | .nan, _ => .nan
  | _, .nan => .nan
  | .inf a, .inf b => if a = b then .inf a else .nan
  | .inf a, .fin _ _ => .inf a
  | .fin _ _, .inf b => .inf b
  | .fin a p, .fin b q =>
    let t := signedUnits a p + signedUnits b q
    if t = 0 then .fin (a && b) 0 else rn53 (decide (t < 0)) t.natAbs 1

/-- The binary64 difference `D` (R175). -/
def subDatum (A B : Datum) : Datum := addDatum A B.negate

/-- The binary64 product `D` (R176): units times units are units of 2^-2148. -/
def mulDatum : Datum → Datum → Datum
  | .nan, _ => .nan
  | _, .nan => .nan
  | .inf a, .inf b => .inf (a != b)
  | .inf a, .fin b q => if q = 0 then .nan else .inf (a != b)
  | .fin a p, .inf b => if p = 0 then .nan else .inf (a != b)
  | .fin a p, .fin b q => rn53 (a != b) (p * q) (2 ^ 1074)

/-- The binary32 quotient (R178): the exact real quotient rounded once. -/
def divDatum : Datum → Datum → Datum
  | .nan, _ => .nan
  | _, .nan => .nan
  | .inf _, .inf _ => .nan
  | .inf a, .fin b _ => .inf (a != b)
  | .fin a _, .inf b => .fin (a != b) 0
  | .fin a p, .fin b q =>
    if q = 0 then (if p = 0 then .nan else .inf (a != b)) else rn24 (a != b) (p * 2 ^ 1074) q

/-- `NAN_RESULT(op, wa, wb)` (R173): the open choice where it is a NaN, else the suggested default; so it is a NaN, and any
NaN. Log entry 8. -/
def nanResult (op : FloatOp) (wa wb : Word) : Word :=
  if isNaN (Config.nanChoice op wa wb) then Config.nanChoice op wa wb else 0x7FC00000

/-- The Word written for a result that is exact or rounded to binary32, `NAN_RESULT` for a NaN (R173). -/
def resultWord (op : FloatOp) (wa wb : Word) (D : Datum) : Word :=
  match D with
  | .nan => nanResult op wa wb
  | .inf neg => wordOfDatum (.inf neg)
  | .fin neg q => wordOfDatum (.fin neg q)

/-- `floatflags(r)`: `Z` is `f(r) ==ieee 0`, `S` is `f(r) <ieee 0`; `P` is not written (R172). -/
def floatFlags (f : Half) (r : Word) : Half :=
  setFlag (setFlag f flagZ ((datum r).eqIeee (.fin false 0))) flagS ((datum r).ltIeee (.fin false 0))

/-- `FLAGS[FO] <- not (D ==ieee widen(f(r)))` (R171). -/
def floatOverflowFlag (f : Half) (D : Datum) (r : Word) : Half := setFlag f flagFO (!D.eqIeee (datum r))

end Sys2Proof.Machine
end

