-- ==== Sys2Proof/Machine/Operands.lean ====
section
/-! DEFINITION. The operand forms, each with its check; the shapes that several instructions share. All checks come before
any write (R61, R116), sources in the order `s2`, `s3`, then the destination (R140, R283). -/

namespace Sys2Proof.Machine

/-! Register operands (R22). -/

/-- Read the effective value of register operand `i`: `MemBounds(x[i])` if out of range (R22, R54). -/
def withVal (s : State) (i : Reg) (k : Word → Result) : Result :=
  match memRead s.mem (s.reg i) with
  | some w => k w
  | none => raise s .memBounds (s.reg i)

/-- Check the destination of register operand `i`: `MemBounds(x[i])` if out of range (R61, R140); nothing is read. -/
def withDest (s : State) (i : Reg) (k : Result) : Result :=
  if wordInRange (s.reg i) then k else raise s .memBounds (s.reg i)

/-! The jump target (R194 to R199). -/

/-- `resolve(w)` and what is done with the target. The target itself is not checked (R194). -/
def withTarget (s : State) (t : Target) (k : Half → Result) : Result :=
  match t with
  | .abs addr => k addr
  | .ind addr =>
    match memRead s.mem addr with
    | some w => k (lo w)
    | none => raise s .memBounds addr
  | .sum ra rb => k (s.reg ra + s.reg rb)
  | .rel off => k (s.pc + off)
  | .illegal mode => raise s .illegalOperand (mode.setWidth 16)

/-! The flag index (R86, R240). -/

/-- A flag index is legal when it is at most 15, checked before any memory access (R240). -/
def withFlagIndex (s : State) (k : Half) (r : Result) : Result :=
  if k.toNat ≤ 15 then r else raise s .illegalOperand k

/-! Shared shapes. A result comes with the flag register it leaves. -/

/-- A three-register instruction `OP d, a, b` (R140): `f` gives, from the operands and the old flags, result and new flags. -/
def binaryOp (f : Word → Word → Half → Word × Half) (d a b : Reg) (s : State) : Result :=
  withVal s a fun wa =>
  withVal s b fun wb =>
  withDest s d
    (.next (((s.setFlags (f wa wb s.flags).2).setVal d (f wa wb s.flags).1).advance))

/-- A one-register instruction `OP r`, in place (R140). -/
def unaryOp (f : Word → Half → Word × Half) (r : Reg) (s : State) : Result :=
  withVal s r fun wa =>
    .next (((s.setFlags (f wa s.flags).2).setVal r (f wa s.flags).1).advance)

/-- A compare `OP a, b`: reads two operands, writes flags only (R190). -/
def compareOp (f : Word → Word → Half → Half) (a b : Reg) (s : State) : Result :=
  withVal s a fun wa =>
  withVal s b fun wb =>
    .next ((s.setFlags (f wa wb s.flags)).advance)

/-- A taken jump: `pc <- resolve(w)` (R200). -/
def jumpTo (t : Target) (s : State) : Result := withTarget s t fun p => .next (s.setPc p)

/-- A conditional jump: the target is resolved only if the jump is taken; else `pc` advances past the jump itself (R201). -/
def jumpIf (cond : Bool) (t : Target) (s : State) : Result :=
  if cond then jumpTo t s else .next s.advance

/-- A console read (R262): destination check, then the port; with no token the core is blocked and has no step (R117, R263; that
this is the outcome `coreBlocked` is log entry 4). -/
def consoleRead (r : Reg) (s : State) : Result :=
  withDest s r
    (match s.input with
      | [] => .fault .coreBlocked
      | .bad :: _ => raise s .inputError 0
      | .ok w :: rest => .next (((s.setInput rest).setVal r w).advance))

/-- A console print: the event is appended (R267). -/
def consolePrint (k : Kind) (r : Reg) (s : State) : Result :=
  withVal s r fun w => .next ((s.setOutput (s.output ++ [⟨k, w⟩])).advance)

end Sys2Proof.Machine
end

