-- ==== Sys2Proof/Machine/Bitwise.lean ====
section
/-! DEFINITION. Bitwise logic (R230 to R234): `Z`, `P`, `S` only. -/

namespace Sys2Proof.Machine

/-- A result with the standard integer flags and no others (R230). -/
def logicResult (r : Word) (f : Half) : Word × Half := (r, intFlags f r)

/-- R231 -/
def execAnd (d a b : Reg) (s : State) : Result := binaryOp (fun wa wb f => logicResult (wa &&& wb) f) d a b s
/-- R232 -/
def execOr (d a b : Reg) (s : State) : Result := binaryOp (fun wa wb f => logicResult (wa ||| wb) f) d a b s
/-- R233 -/
def execXor (d a b : Reg) (s : State) : Result := binaryOp (fun wa wb f => logicResult (wa ^^^ wb) f) d a b s
/-- R234: every bit inverted, in place. -/
def execNot (r : Reg) (s : State) : Result := unaryOp (fun wa f => logicResult (wa ^^^ 0xFFFFFFFF) f) r s

end Sys2Proof.Machine
end

