-- ==== Sys2Proof/Machine/CallReturn.lean ====
section
/-! DEFINITION. `CALL` and `RET` (R250 to R254). Neither is jump-class: each sets `pc` to its destination minus 2 and then
receives the loop's advance (R114). -/

namespace Sys2Proof.Machine

/-- R251 -/
def execCall (addr : Half) (s : State) : Result :=
  .next (((s.push (s.pc + 2)).setPc (addr - 2)).advance)

/-- R252 -/
def execRet (s : State) : Result :=
  .next ((s.pop.2.setPc (s.pop.1 - 2)).advance)

end Sys2Proof.Machine
end

