-- ==== Sys2Proof/Machine/Compare.lean ====
section
/-! DEFINITION. The three compares (R190 to R193). -/

namespace Sys2Proof.Machine

/-- R191 -/
def cmpSigned (wa wb : Word) (f : Half) : Half :=
  compareFlags f flagSE (wa.toInt == wb.toInt) (decide (wb.toInt < wa.toInt))

/-- R192 -/
def cmpUnsigned (wa wb : Word) (f : Half) : Half :=
  compareFlags f flagUE (wa.toNat == wb.toNat) (decide (wb.toNat < wa.toNat))

/-- R193: `FE <- f(wa) ==ieee f(wb)`, `FG <- f(wb) <ieee f(wa)`. -/
def cmpFloat (wa wb : Word) (f : Half) : Half :=
  compareFlags f flagFE ((datum wa).eqIeee (datum wb)) ((datum wb).ltIeee (datum wa))

/-- R191 -/
def execIcmp (a b : Reg) (s : State) : Result := compareOp cmpSigned a b s
/-- R192 -/
def execUcmp (a b : Reg) (s : State) : Result := compareOp cmpUnsigned a b s
/-- R193 -/
def execFcmp (a b : Reg) (s : State) : Result := compareOp cmpFloat a b s

end Sys2Proof.Machine
end

