-- ==== Sys2Proof/Machine/Console.lean ====
section
/-! DEFINITION. The six console instructions (R260 to R272). The kind of a read is the request the port receives
(`readRequest`, Machine/HostPort.lean); the token is the environment's answer to it (R260). -/

namespace Sys2Proof.Machine

/-- R264 -/
def execIread (r : Reg) (s : State) : Result := consoleRead r s
/-- R265 -/
def execUread (r : Reg) (s : State) : Result := consoleRead r s
/-- R266 -/
def execFread (r : Reg) (s : State) : Result := consoleRead r s
/-- R269 -/
def execIprint (r : Reg) (s : State) : Result := consolePrint .signed r s
/-- R270 -/
def execUprint (r : Reg) (s : State) : Result := consolePrint .unsigned r s
/-- R271 -/
def execFprint (r : Reg) (s : State) : Result := consolePrint .float r s

end Sys2Proof.Machine
end

