-- ==== Sys2Proof/Machine/Control.lean ====
section
/-! DEFINITION. `HALT` (R113), `JMP` (R200) and the 18 conditional jumps (R201 to R219). Jump-class: these set `pc` themselves. -/

namespace Sys2Proof.Machine

/-- R113: `RUN <- halted`; nothing else changes, `pc` keeps the address of the halt Word. -/
def execHalt (s : State) : Result := .next (s.setRun .halted)

/-- R200 -/
def execJmp (t : Target) (s : State) : Result := jumpTo t s

/-! The six relations over an equal flag and a greater flag (R201). -/

/-- equal: `E` -/
def relEqual (f : Half) (e _g : Nat) : Bool := getFlag f e
/-- greater: `G` -/
def relGreater (f : Half) (_e g : Nat) : Bool := getFlag f g
/-- less: `not E and not G` -/
def relLess (f : Half) (e g : Nat) : Bool := !getFlag f e && !getFlag f g
/-- not-equal: `not E` -/
def relNotEqual (f : Half) (e _g : Nat) : Bool := !getFlag f e
/-- greater-or-equal: `E or G` -/
def relGreaterEqual (f : Half) (e g : Nat) : Bool := getFlag f e || getFlag f g
/-- less-or-equal: `not G` -/
def relLessEqual (f : Half) (_e g : Nat) : Bool := !getFlag f g

/-! The signed domain: flags `SE` and `SG`. -/

/-- R202 -/
def execIje (t : Target) (s : State) : Result := jumpIf (relEqual s.flags flagSE flagSG) t s

/-- R203 -/
def execIjg (t : Target) (s : State) : Result := jumpIf (relGreater s.flags flagSE flagSG) t s

/-- R204 -/
def execIjl (t : Target) (s : State) : Result := jumpIf (relLess s.flags flagSE flagSG) t s

/-- R205 -/
def execIjne (t : Target) (s : State) : Result := jumpIf (relNotEqual s.flags flagSE flagSG) t s

/-- R206 -/
def execIjge (t : Target) (s : State) : Result := jumpIf (relGreaterEqual s.flags flagSE flagSG) t s

/-- R207 -/
def execIjle (t : Target) (s : State) : Result := jumpIf (relLessEqual s.flags flagSE flagSG) t s

/-! The unsigned domain: flags `UE` and `UG`. -/

/-- R208 -/
def execUje (t : Target) (s : State) : Result := jumpIf (relEqual s.flags flagUE flagUG) t s

/-- R209 -/
def execUjg (t : Target) (s : State) : Result := jumpIf (relGreater s.flags flagUE flagUG) t s

/-- R210 -/
def execUjl (t : Target) (s : State) : Result := jumpIf (relLess s.flags flagUE flagUG) t s

/-- R211 -/
def execUjne (t : Target) (s : State) : Result := jumpIf (relNotEqual s.flags flagUE flagUG) t s

/-- R212 -/
def execUjge (t : Target) (s : State) : Result := jumpIf (relGreaterEqual s.flags flagUE flagUG) t s

/-- R213 -/
def execUjle (t : Target) (s : State) : Result := jumpIf (relLessEqual s.flags flagUE flagUG) t s

/-! The float domain: flags `FE` and `FG`. -/

/-- R214 -/
def execFje (t : Target) (s : State) : Result := jumpIf (relEqual s.flags flagFE flagFG) t s

/-- R215 -/
def execFjg (t : Target) (s : State) : Result := jumpIf (relGreater s.flags flagFE flagFG) t s

/-- R216 -/
def execFjl (t : Target) (s : State) : Result := jumpIf (relLess s.flags flagFE flagFG) t s

/-- R217 -/
def execFjne (t : Target) (s : State) : Result := jumpIf (relNotEqual s.flags flagFE flagFG) t s

/-- R218 -/
def execFjge (t : Target) (s : State) : Result := jumpIf (relGreaterEqual s.flags flagFE flagFG) t s

/-- R219 -/
def execFjle (t : Target) (s : State) : Result := jumpIf (relLessEqual s.flags flagFE flagFG) t s

end Sys2Proof.Machine
end

