-- ==== Sys2Proof/Machine/DataMove.lean ====
section
/-! DEFINITION. Data movement: `LDA`, `MOV`, `LDP` (R130 to R133). -/

namespace Sys2Proof.Machine

/-- R131: `x[s1] <- a16`; the address is not checked. -/
def execLda (r : Reg) (addr : Half) (s : State) : Result := .next ((s.setReg r addr).advance)

/-- R132: the Word is copied; source before destination. -/
def execMov (d src : Reg) (s : State) : Result :=
  withVal s src fun w => withDest s d (.next ((s.setVal d w).advance))

/-- R133: `x[s1] <- w[15:0]` of the Word read. -/
def execLdp (d src : Reg) (s : State) : Result :=
  withVal s src fun w => .next ((s.setReg d (lo w)).advance)

end Sys2Proof.Machine
end

