-- ==== Sys2Proof/Machine/FlagTransfer.lean ====
section
/-! DEFINITION. Flag transfer (R240 to R242). -/

namespace Sys2Proof.Machine

/-- R241: the Word 0 or 1; no flag is written. -/
def execGetf (r : Reg) (k : Half) (s : State) : Result :=
  withFlagIndex s k
    (withDest s r (.next ((s.setVal r (if getFlag s.flags k.toNat then 1 else 0)).advance)))

/-- R242: bit `k` becomes whether the Word is not zero. -/
def execSetf (r : Reg) (k : Half) (s : State) : Result :=
  withFlagIndex s k
    (withVal s r fun w => .next ((s.setFlags (setFlag s.flags k.toNat (w != 0))).advance))

end Sys2Proof.Machine
end

