-- ==== Sys2Proof/Machine/FloatArith.lean ====
section
/-! DEFINITION. Float arithmetic (R170 to R180). -/

namespace Sys2Proof.Machine

/-- Result and flags of an add, subtract or multiply whose binary64 result is `D`: the Word of `RN24(D)` or `NAN_RESULT`, then
`FO`, `Z`, `S` (R171 to R174). -/
def floatResult (op : FloatOp) (wa wb : Word) (D : Datum) (f : Half) : Word × Half :=
  let r := resultWord op wa wb (narrow D)
  (r, floatFlags (floatOverflowFlag f D r) r)

/-- R174 -/
def aluFadd (wa wb : Word) (f : Half) : Word × Half :=
  floatResult .fadd wa wb (addDatum (datum wa) (datum wb)) f

/-- R175 -/
def aluFsub (wa wb : Word) (f : Half) : Word × Half :=
  floatResult .fsub wa wb (subDatum (datum wa) (datum wb)) f

/-- R176 -/
def aluFmul (wa wb : Word) (f : Half) : Word × Half :=
  floatResult .fmul wa wb (mulDatum (datum wa) (datum wb)) f

/-- R178: `DZ` when the divisor is a zero of either sign; `FO` is not written. -/
def aluFdiv (wa wb : Word) (f : Half) : Word × Half :=
  let r := resultWord .fdiv wa wb (divDatum (datum wa) (datum wb))
  (r, floatFlags (divZeroFlag f ((datum wb).eqIeee (.fin false 0))) r)

/-- R179: the sign bit is flipped, nothing else; `Z`, `S` only. -/
def aluFneg (wa : Word) (f : Half) : Word × Half :=
  let r := wa ^^^ 0x80000000
  (r, floatFlags f r)

/-- R174 -/
def execFadd (d a b : Reg) (s : State) : Result := binaryOp aluFadd d a b s
/-- R175 -/
def execFsub (d a b : Reg) (s : State) : Result := binaryOp aluFsub d a b s
/-- R176 -/
def execFmul (d a b : Reg) (s : State) : Result := binaryOp aluFmul d a b s
/-- R178 -/
def execFdiv (d a b : Reg) (s : State) : Result := binaryOp aluFdiv d a b s
/-- R179 -/
def execFneg (r : Reg) (s : State) : Result := unaryOp aluFneg r s

end Sys2Proof.Machine
end

