-- ==== Sys2Proof/Machine/IntArith.lean ====
section
/-! DEFINITION. Integer arithmetic (R140 to R155). Operands are converted to integers, the operation is exact, the result is
reduced modulo 2^32. -/

namespace Sys2Proof.Machine

/-- u(w) as an integer (R8). -/
def uInt (w : Word) : Int := (w.toNat : Int)

/-- `n mod 2^32` as a bit pattern (R8). -/
def wordOfInt (n : Int) : Word := BitVec.ofInt 32 n

/-- Result and flags of a wide operation (R142): `r = U mod 2^32`, then `V`, `C`, `Z`, `P`, `S`. -/
def wideResult (S U : Int) (f : Half) : Word × Half :=
  let r := wordOfInt U
  (r, intFlags (overflowFlags f S U r) r)

/-- Result and flags of a division or remainder: `DZ`, `Z`, `P`, `S` (R147); `q` is the quotient or remainder for a
divisor that is not zero, and the result is 0 for one that is. -/
def divResult (isZero : Bool) (q : Int) (f : Half) : Word × Half :=
  let r := if isZero then 0 else wordOfInt q
  (r, intFlags (divZeroFlag f isZero) r)

/-- R143 -/
def aluIadd (wa wb : Word) (f : Half) : Word × Half :=
  wideResult (wa.toInt + wb.toInt) (uInt wa + uInt wb) f

/-- R144 -/
def aluIsub (wa wb : Word) (f : Half) : Word × Half :=
  wideResult (wa.toInt - wb.toInt) (uInt wa - uInt wb) f

/-- R145 -/
def aluImul (wa wb : Word) (f : Half) : Word × Half :=
  wideResult (wa.toInt * wb.toInt) (uInt wa * uInt wb) f

/-- R146: `C` is written, `V` is not. -/
def aluUmul (wa wb : Word) (f : Half) : Word × Half :=
  let U := uInt wa * uInt wb
  let r := wordOfInt U
  (r, intFlags (carryFlag f U r) r)

/-- R148: truncation toward zero (R147). -/
def aluIdiv (wa wb : Word) (f : Half) : Word × Half :=
  divResult (wb.toInt == 0) (wa.toInt.tdiv wb.toInt) f

/-- R149 -/
def aluUdiv (wa wb : Word) (f : Half) : Word × Half :=
  divResult (wb.toNat == 0) (uInt wa / uInt wb) f

/-- R150: the remainder has the sign of the dividend or is zero (R147). -/
def aluImod (wa wb : Word) (f : Half) : Word × Half :=
  divResult (wb.toInt == 0) (wa.toInt.tmod wb.toInt) f

/-- R151 -/
def aluUmod (wa wb : Word) (f : Half) : Word × Half :=
  divResult (wb.toNat == 0) (uInt wa % uInt wb) f

/-- R154: `Z`, `P`, `S` only. -/
def aluIneg (wa : Word) (f : Half) : Word × Half :=
  let r := wordOfInt (-wa.toInt)
  (r, intFlags f r)

/-- R143 -/
def execIadd (d a b : Reg) (s : State) : Result := binaryOp aluIadd d a b s
/-- R144 -/
def execIsub (d a b : Reg) (s : State) : Result := binaryOp aluIsub d a b s
/-- R145 -/
def execImul (d a b : Reg) (s : State) : Result := binaryOp aluImul d a b s
/-- R146 -/
def execUmul (d a b : Reg) (s : State) : Result := binaryOp aluUmul d a b s
/-- R148 -/
def execIdiv (d a b : Reg) (s : State) : Result := binaryOp aluIdiv d a b s
/-- R149 -/
def execUdiv (d a b : Reg) (s : State) : Result := binaryOp aluUdiv d a b s
/-- R150 -/
def execImod (d a b : Reg) (s : State) : Result := binaryOp aluImod d a b s
/-- R151 -/
def execUmod (d a b : Reg) (s : State) : Result := binaryOp aluUmod d a b s
/-- R152: `IADD` with the second operand the constant 1. -/
def execInc (r : Reg) (s : State) : Result := unaryOp (fun wa f => aluIadd wa 1 f) r s
/-- R153: `ISUB` with the second operand the constant 1. -/
def execDec (r : Reg) (s : State) : Result := unaryOp (fun wa f => aluIsub wa 1 f) r s
/-- R154 -/
def execIneg (r : Reg) (s : State) : Result := unaryOp aluIneg r s

end Sys2Proof.Machine
end

