-- ==== Sys2Proof/Machine/Dispatch.lean ====
section
/-! DEFINITION. The dispatcher: one arm per instruction (R87). -/

namespace Sys2Proof.Machine

def exec (i : Instr) (s : State) : Host.Outcome State Fault Refusal :=
  match i with
  | .halt => Sys2Proof.Machine.execHalt s
  | .jmp t => Sys2Proof.Machine.execJmp t s
  | .ije t => Sys2Proof.Machine.execIje t s
  | .ijg t => Sys2Proof.Machine.execIjg t s
  | .ijl t => Sys2Proof.Machine.execIjl t s
  | .ijne t => Sys2Proof.Machine.execIjne t s
  | .ijge t => Sys2Proof.Machine.execIjge t s
  | .ijle t => Sys2Proof.Machine.execIjle t s
  | .uje t => Sys2Proof.Machine.execUje t s
  | .ujg t => Sys2Proof.Machine.execUjg t s
  | .ujl t => Sys2Proof.Machine.execUjl t s
  | .ujne t => Sys2Proof.Machine.execUjne t s
  | .ujge t => Sys2Proof.Machine.execUjge t s
  | .ujle t => Sys2Proof.Machine.execUjle t s
  | .fje t => Sys2Proof.Machine.execFje t s
  | .fjg t => Sys2Proof.Machine.execFjg t s
  | .fjl t => Sys2Proof.Machine.execFjl t s
  | .fjne t => Sys2Proof.Machine.execFjne t s
  | .fjge t => Sys2Proof.Machine.execFjge t s
  | .fjle t => Sys2Proof.Machine.execFjle t s
  | .lda r addr => Sys2Proof.Machine.execLda r addr s
  | .mov d src => Sys2Proof.Machine.execMov d src s
  | .ldp d src => Sys2Proof.Machine.execLdp d src s
  | .iadd d a b => Sys2Proof.Machine.execIadd d a b s
  | .isub d a b => Sys2Proof.Machine.execIsub d a b s
  | .fadd d a b => Sys2Proof.Machine.execFadd d a b s
  | .fsub d a b => Sys2Proof.Machine.execFsub d a b s
  | .imul d a b => Sys2Proof.Machine.execImul d a b s
  | .umul d a b => Sys2Proof.Machine.execUmul d a b s
  | .fmul d a b => Sys2Proof.Machine.execFmul d a b s
  | .idiv d a b => Sys2Proof.Machine.execIdiv d a b s
  | .udiv d a b => Sys2Proof.Machine.execUdiv d a b s
  | .fdiv d a b => Sys2Proof.Machine.execFdiv d a b s
  | .imod d a b => Sys2Proof.Machine.execImod d a b s
  | .umod d a b => Sys2Proof.Machine.execUmod d a b s
  | .inc r => Sys2Proof.Machine.execInc r s
  | .dec r => Sys2Proof.Machine.execDec r s
  | .ineg r => Sys2Proof.Machine.execIneg r s
  | .fneg r => Sys2Proof.Machine.execFneg r s
  | .icmp a b => Sys2Proof.Machine.execIcmp a b s
  | .ucmp a b => Sys2Proof.Machine.execUcmp a b s
  | .fcmp a b => Sys2Proof.Machine.execFcmp a b s
  | .and d a b => Sys2Proof.Machine.execAnd d a b s
  | .or d a b => Sys2Proof.Machine.execOr d a b s
  | .xor d a b => Sys2Proof.Machine.execXor d a b s
  | .not r => Sys2Proof.Machine.execNot r s
  | .getf r k => Sys2Proof.Machine.execGetf r k s
  | .setf r k => Sys2Proof.Machine.execSetf r k s
  | .iread r => Sys2Proof.Machine.execIread r s
  | .uread r => Sys2Proof.Machine.execUread r s
  | .fread r => Sys2Proof.Machine.execFread r s
  | .iprint r => Sys2Proof.Machine.execIprint r s
  | .uprint r => Sys2Proof.Machine.execUprint r s
  | .fprint r => Sys2Proof.Machine.execFprint r s
  | .call addr => Sys2Proof.Machine.execCall addr s
  | .ret => Sys2Proof.Machine.execRet s

end Sys2Proof.Machine
end

