-- ==== Sys2Proof/Machine/Fetch.lean ====
section
/-! DEFINITION. Fetch, decode, and one pass of the loop of a running core (R110 to R116). -/

namespace Sys2Proof.Machine

/-- What stands at the instruction pointer. -/
inductive Fetched where
  /-- `pc > 32766` (R111) -/
  | outOfRange
  /-- an opcode 56..255 (R115) -/
  | reserved (op : Slot)
  /-- an instruction; opcode 0 is `halt` (R113) -/
  | instr (i : Instr)
deriving DecidableEq, Repr

/-- Fetch the Word at `pc` (R111) and decode it (R112). There is no alignment check. -/
def fetchDecode (s : State) : Fetched :=
  match memRead s.mem s.pc with
  | none => .outOfRange
  | some w =>
    match decode w with
    | .ok i => .instr i
    | .error (.reservedOpcode op) => .reserved op

/-- One pass of the loop (R110, steps 1 to 7). The advance of step 7 (R114) is part of each meaning (log entry 21). -/
def cycle (s : State) : Result :=
  match fetchDecode s with
  | .outOfRange => raise s .fetchBounds s.pc
  | .reserved op => raise s .illegalOpcode (op.setWidth 16)
  | .instr i => exec i s

/-- The state that is about to run the instruction whose Word is `w`: `w` stored at `pc` and `RUN = running`, which is what
`write_word` and `start` do (R321, R322); where `pc` names no Word of memory, at cell 0. Log entry 11. -/
def State.placeWord (s : State) (w : Word) : State :=
  let p : Half := if wordInRange s.pc then s.pc else 0
  ((s.setPc p).setMem (s.mem.setWord p w)).setRun .running

end Sys2Proof.Machine
end

