-- ==== Sys2Proof/Machine/Step.lean ====
section
/-! DEFINITION. One step of the core (R110). -/

namespace Sys2Proof.Machine

/-- One step (R110): defined when `RUN = running`; from `halted` and `faulted` there is none (R32, log entry 3). -/
def step (s : State) : Host.Outcome State Fault Refusal :=
  match s.run with
  | .running => cycle s
  | .halted => .fault .coreHalted
  | .faulted cause info => .fault (.coreFaulted cause info)

/-- The state whose next step fetches and runs the instruction whose bits are `w`, the bits from `nbits` up being 0. -/
def State.withFetchWord (s : State) (nbits w : Nat) : State := s.placeWord (tableWord nbits w)

end Sys2Proof.Machine
end

