-- ==== Sys2Proof/Machine/HostPort.lean ====
section
/-! DEFINITION. The host interface (R320 to R324), and the console port as the environment sees it (R260, R263). -/

namespace Sys2Proof.Machine

/-- The host acts only while `RUN` is `halted` or `faulted` (R320). -/
def State.idle (s : State) : Bool :=
  match s.run with
  | .running => false
  | .halted => true
  | .faulted _ _ => true

/-- `write_word(addr, w)` (R67, R321). -/
def hostWriteWord (s : State) (addr : Half) (w : Word) : Result :=
  if s.idle then
    (match memWrite s.mem addr w with
      | some m => .next (s.setMem m)
      | none => .refused .hostAddress)
  else .refused .hostWhileRunning

/-- `read_word(addr)` (R67, R321). -/
def hostReadWord (s : State) (addr : Half) : Host.Outcome Word Fault Refusal :=
  if s.idle then
    (match memRead s.mem addr with
      | some w => .next w
      | none => .refused .hostAddress)
  else .refused .hostWhileRunning

/-- `clear()`: every cell becomes 0x0000; nothing but `MEM` changes (R67, R321). -/
def hostClear (s : State) : Result :=
  if s.idle then .next (s.setMem []) else .refused .hostWhileRunning

/-- `start(entry)`: `pc <- entry`, `RUN <- running`; nothing else changes; any 16-bit entry is accepted (R322). -/
def hostStart (s : State) (entry : Half) : Result :=
  if s.idle then .next ((s.setPc entry).setRun .running) else .refused .hostWhileRunning

/-- `reset()`: all state returns to its reset value (R323); `IN` is the environment's and stays (R38; log entry 12). -/
def hostReset (s : State) : Result :=
  if s.idle then .next (State.reset.setInput s.input) else .refused .hostWhileRunning

/-- What the host may read while the core is not running (R324); `MEM` by `read_word`. -/
structure Observation where
  x : Vector Half 256
  flags : Half
  pc : Half
  sp : BitVec 4
  run : Run
  output : List Event
  mem : Memory
deriving DecidableEq, Repr

/-- Observation (R324). -/
def hostObserve (s : State) : Host.Outcome Observation Fault Refusal :=
  if s.idle then
    .next { x := s.x, flags := s.flags, pc := s.pc, sp := s.sp, run := s.run, output := s.output, mem := s.mem }
  else .refused .hostWhileRunning

/-- The environment appends tokens to `IN`; it may do so at any time, also while the core runs (R117, R285). -/
def State.appendInput (s : State) (ts : List Token) : State := s.setInput (s.input ++ ts)

/-- The kind of console read an instruction makes, with its register (R264 to R266). -/
def readKind : Instr → Option (Kind × Reg)
  | .iread r => some (.signed, r)
  | .uread r => some (.unsigned, r)
  | .fread r => some (.float, r)
  | .halt | .jmp _ | .ije _ | .ijg _ | .ijl _ | .ijne _ | .ijge _ | .ijle _
  | .uje _ | .ujg _ | .ujl _ | .ujne _ | .ujge _ | .ujle _
  | .fje _ | .fjg _ | .fjl _ | .fjne _ | .fjge _ | .fjle _
  | .lda _ _ | .mov _ _ | .ldp _ _
  | .iadd _ _ _ | .isub _ _ _ | .fadd _ _ _ | .fsub _ _ _ | .imul _ _ _ | .umul _ _ _ | .fmul _ _ _
  | .idiv _ _ _ | .udiv _ _ _ | .fdiv _ _ _ | .imod _ _ _ | .umod _ _ _
  | .inc _ | .dec _ | .ineg _ | .fneg _ | .icmp _ _ | .ucmp _ _ | .fcmp _ _
  | .and _ _ _ | .or _ _ _ | .xor _ _ _ | .not _ | .getf _ _ | .setf _ _
  | .iprint _ | .uprint _ | .fprint _ | .call _ | .ret => none

/-- The read request the core issues at this state, with its kind (R260): only after the destination check (R262). -/
def readRequest (s : State) : Option Kind :=
  match s.run, fetchDecode s with
  | .running, .instr i =>
    match readKind i with
    | some (k, r) => if wordInRange (s.reg r) then some k else none
    | none => none
  | _, _ => none

/-- The core is blocked: a read request and no token (R117, R263). -/
def State.blocked (s : State) : Bool := (readRequest s).isSome && s.input.isEmpty

end Sys2Proof.Machine
end

