-- ==== Sys2Proof/Safety.lean ====
section
/-! DEFINITION. The terms in which claims speak of runs: the state's invariant, the ways a run goes on, what a safe end is. -/

namespace Sys2Proof.Machine

/-- The fault record says what R281 says of its cause: an opcode 56..255, a mode or flag index that is illegal, an address or
a `pc` above 32766, or 0. -/
def State.recordWf (s : State) : Bool :=
  match s.run with
  | .running => true
  | .halted => true
  | .faulted .illegalOpcode info => decide (56 ≤ info.toNat ∧ info.toNat ≤ 255)
  | .faulted .illegalOperand info => decide (4 ≤ info.toNat)
  | .faulted .memBounds info => decide (32766 < info.toNat)
  | .faulted .fetchBounds info => decide (32766 < info.toNat) && info == s.pc
  | .faulted .inputError info => info == 0

/-- The invariant of every step: memory in canonical form, the fault record as R281 says. -/
def State.wf (s : State) : Bool := s.mem.wf && s.recordWf

/-- A run never ends in a fault. -/
def State.notFaulted (s : State) : Bool :=
  match s.run with
  | .faulted _ _ => false
  | .running => true
  | .halted => true

/-- The core has a step: it runs and is not blocked (R110, R117). -/
def State.enabled (s : State) : Bool := decide (s.run = .running) && !s.blocked

/-- One move of the machine: a step of the core, an act of the host, or the environment's input (R285, R320). -/
inductive Move : State → State → Prop where
  | step {s t : State} : step s = .next t → Move s t
  | write {s t : State} (addr : Half) (w : Word) : hostWriteWord s addr w = .next t → Move s t
  | clear {s t : State} : hostClear s = .next t → Move s t
  | start {s t : State} (entry : Half) : hostStart s entry = .next t → Move s t
  | reset {s t : State} : hostReset s = .next t → Move s t
  | input (s : State) (ts : List Token) : Move s (s.appendInput ts)

/-- The states that moves lead to from reset. -/
inductive Reachable : State → Prop where
  | reset : Reachable State.reset
  | move {s t : State} : Reachable s → Move s t → Reachable t

end Sys2Proof.Machine
end

