-- ==== Sys2Proof/Certificates/Slice0/Obligations.lean ====
section
/-! DEFINITION. The statements for the provers. The vocabulary they share stands first, in `Sys2Proof.Claims`, written from the
rules of spec/ as plain arithmetic, not through the meanings' own helpers. -/

namespace Sys2Proof.Claims

open Sys2Proof.Machine

/-! What a next state keeps and what it changes. -/

/-- The Word `w` stands at `a`, low half first (R51), and no other cell changed. -/
def StoresWord (s t : State) (a : Half) (w : Word) : Prop :=
  (t.mem.cell a.toNat).toNat = w.toNat % 65536 ∧ (t.mem.cell (a.toNat + 1)).toNat = w.toNat / 65536 ∧
  ∀ c, c ≠ a.toNat → c ≠ a.toNat + 1 → t.mem.cell c = s.mem.cell c

/-- Every cell reads as before. -/
def MemorySame (s t : State) : Prop := ∀ c, t.mem.cell c = s.mem.cell c

/-- Every address register reads as before. -/
def RegistersSame (s t : State) : Prop := ∀ j, t.reg j = s.reg j

/-- The listed flags take the listed values; every other flag is as before (R29, R30). -/
def FlagsBecome (s t : State) (fl : List (Nat × Bool)) : Prop :=
  (∀ p ∈ fl, getFlag t.flags p.1 = p.2) ∧ ∀ k, k ∉ fl.map Prod.fst → getFlag t.flags k = getFlag s.flags k

/-- `SP`, `RUN`, `IN` and `OUT` are as before. -/
def RestSame (s t : State) : Prop := t.sp = s.sp ∧ t.run = s.run ∧ t.input = s.input ∧ t.output = s.output

/-- A result Word written through register `dst`, with the flags it sets, and nothing else but the advance of `pc` (R114). -/
def ResultStored (s t : State) (dst : Reg) (r : Word) (fl : List (Nat × Bool)) : Prop :=
  StoresWord s t (s.reg dst) r ∧ FlagsBecome s t fl ∧ RegistersSame s t ∧ RestSame s t ∧ t.pc = s.pc + 2

/-- The instruction raises a fault: `RUN` records it and nothing else changes (R116, R280). -/
def Raises (i : Instr) (s : State) (c : Cause) (info : Half) : Prop :=
  exec i s = .next { s with run := .faulted c info }

/-! Encodings, as numbers (R81, R82, R84). -/

/-- Format A: `w = op + 2^8*s1 + 2^16*s2 + 2^24*s3` (R81). -/
def wordA (op : Nat) (f1 f2 f3 : Slot) : Word :=
  BitVec.ofNat 32 (op + 2 ^ 8 * f1.toNat + 2 ^ 16 * f2.toNat + 2 ^ 24 * f3.toNat)

/-- Format B: `w = op + 2^8*s1 + 2^16*a16` (R82). -/
def wordB (op : Nat) (f1 : Slot) (v : Half) : Word := BitVec.ofNat 32 (op + 2 ^ 8 * f1.toNat + 2 ^ 16 * v.toNat)

/-- Opcode `op` in format A is `i` of the three slots. -/
def EncodesA (op : Nat) (i : Slot → Slot → Slot → Instr) : Prop := ∀ f1 f2 f3, decode (wordA op f1 f2 f3) = .ok (i f1 f2 f3)

/-- Opcode `op` in format B is `i` of the slot and the 16-bit field. -/
def EncodesB (op : Nat) (i : Slot → Half → Instr) : Prop := ∀ f1 v, decode (wordB op f1 v) = .ok (i f1 v)

/-- Opcode `op` in format J: the mode is `s1`; modes 0, 1, 3 read `a16`, mode 2 reads `s2` and `s3`, the others are illegal. -/
def EncodesJ (op : Nat) (j : Target → Instr) : Prop :=
  (∀ v, decode (wordB op 0 v) = .ok (j (.abs v))) ∧ (∀ v, decode (wordB op 1 v) = .ok (j (.ind v))) ∧
  (∀ f2 f3, decode (wordA op 2 f2 f3) = .ok (j (.sum f2 f3))) ∧ (∀ v, decode (wordB op 3 v) = .ok (j (.rel v))) ∧
  ∀ m v, 3 < m.toNat → decode (wordB op m v) = .ok (j (.illegal m))

/-! The shapes of instructions. -/

/-- `OP d, a, b` (R140): opcode `op`; the bounds checks in the order first source, second source, destination; and, when all
three are in range, the result `r` that `rel` gives for the two operands, with the flags `fl`. -/
def ThreeRegister (op : Nat) (i : Reg → Reg → Reg → Instr) (rel : Word → Word → Word → Prop)
    (fl : Word → Word → Word → List (Nat × Bool)) : Prop :=
  EncodesA op i ∧
  (∀ s d a b, ¬ wordInRange (s.reg a) → Raises (i d a b) s .memBounds (s.reg a)) ∧
  (∀ s d a b, wordInRange (s.reg a) → ¬ wordInRange (s.reg b) → Raises (i d a b) s .memBounds (s.reg b)) ∧
  (∀ s d a b, wordInRange (s.reg a) → wordInRange (s.reg b) → ¬ wordInRange (s.reg d) →
    Raises (i d a b) s .memBounds (s.reg d)) ∧
  ∀ s d a b, s.mem.wf = true → wordInRange (s.reg a) → wordInRange (s.reg b) → wordInRange (s.reg d) →
    ∃ t r, exec (i d a b) s = .next t ∧ rel (s.val a) (s.val b) r ∧ ResultStored s t d r (fl (s.val a) (s.val b) r)

/-- `OP r`, in place, the register in `s3`, `s1` and `s2` ignored (R89, R140). -/
def OneRegister (op : Nat) (i : Reg → Instr) (rel : Word → Word → Prop) (fl : Word → Word → List (Nat × Bool)) : Prop :=
  EncodesA op (fun _ _ f3 => i f3) ∧
  (∀ s r, ¬ wordInRange (s.reg r) → Raises (i r) s .memBounds (s.reg r)) ∧
  ∀ s r, s.mem.wf = true → wordInRange (s.reg r) →
    ∃ t w, exec (i r) s = .next t ∧ rel (s.val r) w ∧ ResultStored s t r w (fl (s.val r) w)

/-- `OP a, b`, a compare: the registers in `s2` and `s3`, `s1` ignored; two flags and the advance of `pc`, nothing else (R190). -/
def Compare (op : Nat) (i : Reg → Reg → Instr) (fl : Word → Word → List (Nat × Bool)) : Prop :=
  EncodesA op (fun _ f2 f3 => i f2 f3) ∧
  (∀ s a b, ¬ wordInRange (s.reg a) → Raises (i a b) s .memBounds (s.reg a)) ∧
  (∀ s a b, wordInRange (s.reg a) → ¬ wordInRange (s.reg b) → Raises (i a b) s .memBounds (s.reg b)) ∧
  ∀ s a b, wordInRange (s.reg a) → wordInRange (s.reg b) →
    ∃ t, exec (i a b) s = .next t ∧ FlagsBecome s t (fl (s.val a) (s.val b)) ∧ MemorySame s t ∧ RegistersSame s t ∧
      RestSame s t ∧ t.pc = s.pc + 2

/-! Integer flags and division. -/

/-- `Z`, `P`, `S` of an integer result (R141). -/
def integerFlags (r : Word) : List (Nat × Bool) :=
  [(0, decide (r.toNat = 0)), (1, parity r), (8, decide (2 ^ 31 ≤ r.toNat))]

/-- The exact signed result is not in -2^31 .. 2^31-1 (R142). -/
def signedOverflow (S : Int) : Bool := decide (S < -2 ^ 31 ∨ 2 ^ 31 - 1 < S)

/-- `tdiv(n, m) = sign(n)*sign(m)*floor(|n| / |m|)` (R147). -/
def truncatedQuotient (n m : Int) : Int := n.sign * m.sign * ((n.natAbs / m.natAbs : Nat) : Int)

/-! Jump targets (R194 to R198). -/

/-- `resolve(w) = p` where it does not fault. -/
def Resolves (s : State) : Target → Half → Prop
  | .abs addr, p => p = addr
  | .ind addr, p => addr.toNat ≤ 32766 ∧ p.toNat = (s.word addr).toNat % 2 ^ 16
  | .sum ra rb, p => p.toNat = ((s.reg ra).toNat + (s.reg rb).toNat) % 2 ^ 16
  | .rel off, p => (p.toNat : Int) = ((s.pc.toNat : Int) + off.toInt) % 2 ^ 16
  | .illegal _, _ => False

/-- A taken jump: `pc` becomes the resolved target and nothing else changes; the two faults of resolving (R196, R199). -/
def TakesJump (j : Target → Instr) (taken : State → Prop) : Prop :=
  (∀ s g p, taken s → Resolves s g p → exec (j g) s = .next { s with pc := p }) ∧
  (∀ s addr, taken s → 32766 < addr.toNat → Raises (j (.ind addr)) s .memBounds addr) ∧
  (∀ s m, taken s → Raises (j (.illegal m)) s .illegalOperand (m.setWidth 16))

/-- A conditional jump (R201): its opcode `op`; the taken path; the path not taken, which looks at nothing but the flags `e` and
`g`: no operand is examined and no fault can arise. -/
def ConditionalJump (op : Nat) (j : Target → Instr) (e g : Nat) (c : Bool → Bool → Bool) : Prop :=
  EncodesJ op j ∧ TakesJump j (fun s => c (getFlag s.flags e) (getFlag s.flags g) = true) ∧
  ∀ s t, c (getFlag s.flags e) (getFlag s.flags g) = false → exec (j t) s = .next { s with pc := s.pc + 2 }

/-- The six conditional jumps of a domain with flags `e`, `g`, opcodes from `op` on in the order of R95 and the table of R201. -/
def SixJumps (op e g : Nat) (je jg jl jne jge jle : Target → Instr) : Prop :=
  ConditionalJump op je e g (fun E _ => E) ∧ ConditionalJump (op + 1) jg e g (fun _ G => G) ∧
  ConditionalJump (op + 2) jl e g (fun E G => !E && !G) ∧ ConditionalJump (op + 3) jne e g (fun E _ => !E) ∧
  ConditionalJump (op + 4) jge e g (fun E G => E || G) ∧ ConditionalJump (op + 5) jle e g (fun _ G => !G)

/-! Floats (R170). -/

/-- The order of data that are not NaN: infinities beyond every finite datum, both zeros the same. -/
def key : Datum → Int
  | .nan => 0
  | .inf neg => if neg then -2 ^ 3000 else 2 ^ 3000
  | .fin neg q => if neg then -(q : Int) else q

/-- `a ==ieee b` (R170). -/
def ieeeEq (A B : Datum) : Prop := A ≠ .nan ∧ B ≠ .nan ∧ key A = key B

/-- `a <ieee b` (R170). -/
def ieeeLt (A B : Datum) : Prop := A ≠ .nan ∧ B ≠ .nan ∧ key A < key B

/-- The sign bit of a datum. -/
def negative : Datum → Bool
  | .nan => false
  | .inf neg => neg
  | .fin neg _ => neg

/-- The magnitude of a finite datum, in units of 2^-1074. -/
def magnitude : Datum → Nat
  | .nan => 0
  | .inf _ => 0
  | .fin _ q => q

def infinite (A : Datum) : Prop := A = .inf true ∨ A = .inf false
def zero (A : Datum) : Prop := A = .fin true 0 ∨ A = .fin false 0
def finite (A : Datum) : Prop := A ≠ .nan ∧ ¬ infinite A

/-- `D` is the binary64 sum of `A` and `B` (R174), the sign of a zero sum by R170. -/
def IsSum (A B D : Datum) : Prop :=
  (A = .nan ∨ B = .nan → D = .nan) ∧
  (infinite A → infinite B → A ≠ B → D = .nan) ∧
  (infinite A → B ≠ .nan → (infinite B → A = B) → D = A) ∧
  (infinite B → finite A → D = B) ∧
  (finite A → finite B → key A + key B = 0 → D = .fin (negative A && negative B) 0) ∧
  (finite A → finite B → key A + key B ≠ 0 → D = rn53 (decide (key A + key B < 0)) (key A + key B).natAbs 1)

/-- The datum with the other sign (R175: `A - B` is `A + (-B)`). -/
def opposite : Datum → Datum
  | .nan => .nan
  | .inf neg => .inf (!neg)
  | .fin neg q => .fin (!neg) q

/-- `D` is the binary64 product of `A` and `B` (R176). -/
def IsProduct (A B D : Datum) : Prop :=
  (A = .nan ∨ B = .nan → D = .nan) ∧
  ((zero A ∧ infinite B) ∨ (infinite A ∧ zero B) → D = .nan) ∧
  (A ≠ .nan → B ≠ .nan → ¬ zero A → ¬ zero B → infinite A ∨ infinite B → D = .inf (negative A != negative B)) ∧
  (finite A → finite B → D = rn53 (negative A != negative B) (magnitude A * magnitude B) (2 ^ 1074))

/-- `D` is the binary32 quotient of `A` and `B` (R178): the exact quotient rounded once. -/
def IsQuotient (A B D : Datum) : Prop :=
  (A = .nan ∨ B = .nan ∨ (zero A ∧ zero B) ∨ (infinite A ∧ infinite B) → D = .nan) ∧
  (zero B → finite A → ¬ zero A → D = .inf (negative A != negative B)) ∧
  (infinite A → finite B → D = .inf (negative A != negative B)) ∧
  (zero A → finite B → ¬ zero B → D = .fin (negative A != negative B) 0) ∧
  (infinite B → finite A → D = .fin (negative A != negative B) 0) ∧
  (finite A → finite B → ¬ zero A → ¬ zero B →
    D = rn24 (negative A != negative B) (magnitude A * 2 ^ 1074) (magnitude B))

/-- `r` is the Word of the binary64 result `D` narrowed to binary32, and some NaN where `D` is one (R171, R173). -/
def NarrowsTo (D : Datum) (r : Word) : Prop :=
  (D = .nan → isNaN r = true) ∧ (infinite D → datum r = D) ∧ (finite D → datum r = rn24 (negative D) (magnitude D) 1)

/-- `Z` and `S` of a float result (R172). -/
def floatResultFlags (r : Word) : List (Nat × Bool) :=
  [(0, decide (r.toNat % 2 ^ 31 = 0)), (8, r.getLsbD 31 && decide (r.toNat % 2 ^ 31 ≠ 0) && !isNaN r)]

/-- A float add, subtract or multiply (R171 to R176): the checks and the stored result are those of R140; `op3` says what `D` is;
`FO` is 1 exactly when `D` is not IEEE-equal to the Word written. -/
def FloatThreeRegister (op : Nat) (i : Reg → Reg → Reg → Instr) (isD : Datum → Datum → Datum → Prop) : Prop :=
  EncodesA op i ∧
  (∀ s d a b, ¬ wordInRange (s.reg a) → Raises (i d a b) s .memBounds (s.reg a)) ∧
  (∀ s d a b, wordInRange (s.reg a) → ¬ wordInRange (s.reg b) → Raises (i d a b) s .memBounds (s.reg b)) ∧
  (∀ s d a b, wordInRange (s.reg a) → wordInRange (s.reg b) → ¬ wordInRange (s.reg d) →
    Raises (i d a b) s .memBounds (s.reg d)) ∧
  ∀ s d a b, s.mem.wf = true → wordInRange (s.reg a) → wordInRange (s.reg b) → wordInRange (s.reg d) →
    ∃ t D r fo, exec (i d a b) s = .next t ∧ isD (datum (s.val a)) (datum (s.val b)) D ∧ NarrowsTo D r ∧
      (fo = true ↔ ¬ ieeeEq D (datum r)) ∧ ResultStored s t d r (floatResultFlags r ++ [(11, fo)])

/-- A magnitude that `p` significant bits with unit `2^g` can write. -/
def Representable (p g q : Nat) : Prop := ∃ m e, m < 2 ^ p ∧ g ≤ e ∧ q = m * 2 ^ e

/-- `round` rounds the exact magnitude `n / d` (in units of 2^-1074) to the nearest representable magnitude, a tie to the one whose
last fraction bit is 0, and to infinity from `2^top - 2^(top-p-1)` units on (R170). -/
def RoundsToNearestEven (round : Bool → Nat → Nat → Datum) (p g top : Nat) : Prop :=
  ∀ neg n d, 0 < d →
    (round neg n d = .inf neg ↔ (2 ^ top - 2 ^ (top - p - 1)) * d ≤ n) ∧
    (n < (2 ^ top - 2 ^ (top - p - 1)) * d →
      ∃ q, round neg n d = .fin neg q ∧ Representable p g q ∧ q < 2 ^ top ∧
        ∀ q', Representable p g q' →
          ((q * d : Int) - n).natAbs ≤ ((q' * d : Int) - n).natAbs ∧
          (((q * d : Int) - n).natAbs = ((q' * d : Int) - n).natAbs → q' ≠ q →
            q / 2 ^ (max g (q.log2 - (p - 1))) % 2 = 0))

/-! Calls and returns. -/

/-- The return addresses of calls nested at their targets, the outermost first: each is the address after its call (R251). -/
def returnAddresses : Half → List Half → List Half
  | _, [] => []
  | pc, target :: rest => (pc + 2) :: returnAddresses target rest

/-- Execute one `CALL` after another. -/
def callAll : List Half → State → Option State
  | [], s => some s
  | target :: rest, s =>
    match exec (.call target) s with
    | .next t => callAll rest t
    | .fault _ => none
    | .refused _ => none

/-- Execute `RET` so many times; the addresses returned to, in order, and the state left. -/
def returnAll : Nat → State → Option (List Half × State)
  | 0, s => some ([], s)
  | n + 1, s =>
    match exec .ret s with
    | .next t =>
      (match returnAll n t with
        | some (ps, u) => some (t.pc :: ps, u)
        | none => none)
    | .fault _ => none
    | .refused _ => none

/-! Ownership of state. -/

/-- The flags an instruction may write: the matrix of R30. -/
def flagsWritten : Instr → List Nat
  | .iadd _ _ _ | .isub _ _ _ | .imul _ _ _ | .inc _ | .dec _ => [0, 1, 8, 9, 10]
  | .umul _ _ _ => [0, 1, 8, 10]
  | .idiv _ _ _ | .udiv _ _ _ | .imod _ _ _ | .umod _ _ _ => [0, 1, 8, 12]
  | .ineg _ | .and _ _ _ | .or _ _ _ | .xor _ _ _ | .not _ => [0, 1, 8]
  | .fadd _ _ _ | .fsub _ _ _ | .fmul _ _ _ => [0, 8, 11]
  | .fdiv _ _ _ => [0, 8, 12]
  | .fneg _ => [0, 8]
  | .icmp _ _ => [2, 3]
  | .ucmp _ _ => [4, 5]
  | .fcmp _ _ => [6, 7]
  | .setf _ k => [k.toNat]
  | .halt | .jmp _ | .ije _ | .ijg _ | .ijl _ | .ijne _ | .ijge _ | .ijle _
  | .uje _ | .ujg _ | .ujl _ | .ujne _ | .ujge _ | .ujle _
  | .fje _ | .fjg _ | .fjl _ | .fjne _ | .fjge _ | .fjle _
  | .lda _ _ | .mov _ _ | .ldp _ _ | .getf _ _ | .iread _ | .uread _ | .fread _
  | .iprint _ | .uprint _ | .fprint _ | .call _ | .ret => []

/-- The console reads (R264 to R266). -/
def isRead (i : Instr) : Prop := ∃ r, i = .iread r ∨ i = .uread r ∨ i = .fread r

/-- The console prints with the kind of their event (R269 to R271). -/
def printKind (i : Instr) (k : Kind) : Prop :=
  ∃ r, (i = .iprint r ∧ k = .signed) ∨ (i = .uprint r ∧ k = .unsigned) ∨ (i = .fprint r ∧ k = .float)

/-- A console read at opcode `op` (R262): the destination check first; then, with no token, no step (R263); a `bad` token is a
fault and stays; an `ok` token is consumed, its Word stored, no flag written. -/
def ReadInstruction (op : Nat) (i : Reg → Instr) : Prop :=
  EncodesA op (fun _ _ f3 => i f3) ∧
  (∀ s r, ¬ wordInRange (s.reg r) → Raises (i r) s .memBounds (s.reg r)) ∧
  (∀ s r, wordInRange (s.reg r) → s.input = [] → exec (i r) s = .fault .coreBlocked) ∧
  (∀ s r rest, wordInRange (s.reg r) → s.input = .bad :: rest → Raises (i r) s .inputError 0) ∧
  ∀ s r w rest, s.mem.wf = true → wordInRange (s.reg r) → s.input = .ok w :: rest →
    ∃ t, exec (i r) s = .next t ∧ StoresWord s t (s.reg r) w ∧ t.input = rest ∧ FlagsBecome s t [] ∧ RegistersSame s t ∧
      t.sp = s.sp ∧ t.run = s.run ∧ t.output = s.output ∧ t.pc = s.pc + 2

/-- The core is at a console read that has passed its destination check, and there is no token (R262, R263). -/
def Waits (s : State) : Prop :=
  wordInRange s.pc ∧ s.input = [] ∧ ∃ i r, decode (s.word s.pc) = .ok i ∧ (i = .iread r ∨ i = .uread r ∨ i = .fread r) ∧
    wordInRange (s.reg r)

/-- A console print at opcode `op` (R267): one event appended, nothing else but the advance of `pc`. -/
def PrintInstruction (op : Nat) (i : Reg → Instr) (k : Kind) : Prop :=
  EncodesA op (fun _ _ f3 => i f3) ∧
  (∀ s r, ¬ wordInRange (s.reg r) → Raises (i r) s .memBounds (s.reg r)) ∧
  ∀ s r, wordInRange (s.reg r) →
    ∃ t, exec (i r) s = .next t ∧ t.output = s.output ++ [⟨k, s.val r⟩] ∧ FlagsBecome s t [] ∧ MemorySame s t ∧
      RegistersSame s t ∧ t.sp = s.sp ∧ t.run = s.run ∧ t.input = s.input ∧ t.pc = s.pc + 2

end Sys2Proof.Claims

open Sys2Proof Sys2Proof.Machine Sys2Proof.Claims

/-! Memory. -/

/-- R52: what a read of one or two cells answers, and where it does not. -/
def Obligations.MemReadValueAndBounds : Prop :=
  (∀ (m : Memory) (a : Half), 32766 < a.toNat → memRead m a = none) ∧
  (∀ (m : Memory) (a : Half), 32767 < a.toNat → memReadCell m a = none) ∧
  (∀ (m : Memory) (a : Half), a.toNat ≤ 32766 →
    ∃ w, memRead m a = some w ∧ w.toNat = (m.cell a.toNat).toNat + 2 ^ 16 * (m.cell (a.toNat + 1)).toNat) ∧
  (∀ (m : Memory) (a : Half), a.toNat ≤ 32767 → memReadCell m a = some (m.cell a.toNat))

/-- R53: what a write of one or two cells leaves, and that it reads back. The canonical form is kept. -/
def Obligations.MemWriteReadsBack : Prop :=
  (∀ (m : Memory) (a : Half) (w : Word), 32766 < a.toNat → memWrite m a w = none) ∧
  (∀ (m : Memory) (a : Half) (w : Word), 32767 < a.toNat → memWriteCell m a w = none) ∧
  (∀ (m : Memory) (a : Half) (w : Word), m.wf = true → a.toNat ≤ 32766 →
    ∃ m', memWrite m a w = some m' ∧ m'.wf = true ∧ memRead m' a = some w ∧
      (m'.cell a.toNat).toNat = w.toNat % 2 ^ 16 ∧ (m'.cell (a.toNat + 1)).toNat = w.toNat / 2 ^ 16 ∧
      ∀ c, c ≠ a.toNat → c ≠ a.toNat + 1 → m'.cell c = m.cell c) ∧
  (∀ (m : Memory) (a : Half) (w : Word), m.wf = true → a.toNat ≤ 32767 →
    ∃ m', memWriteCell m a w = some m' ∧ m'.wf = true ∧
      (m'.cell a.toNat).toNat = w.toNat % 2 ^ 16 ∧ ∀ c, c ≠ a.toNat → m'.cell c = m.cell c)

/-- The parity predicate as R141 words it, over the set of one bits. -/
def Obligations.ParityCountsOneBits : Prop :=
  (∀ r : Word, parity r = true ↔ (Finset.univ.filter fun i : Fin 32 => r.getLsbD i.val = true).card % 2 = 0) ∧
  (∀ s t : State, ∀ r, t.flags = intFlags s.flags r → FlagsBecome s t (integerFlags r))

/-! Encoding. -/

/-- Decoding an instruction's Word gives the instruction back, every operand at every value (R80 to R89). -/
def Obligations.DecodeEncodeAgree : Prop := ∀ i : Instr, i.wellFormed = true → decode (encode i) = .ok i

/-- What decodes is well-formed, has the Word's opcode, and its own Word has the same meaning and zeros in the unused fields. -/
def Obligations.DecodeNormalForm : Prop :=
  ∀ (w : Word) (i : Instr), decode w = .ok i →
    i.wellFormed = true ∧ i.opcode = opField w ∧ (opField w).toNat ≤ 55 ∧ decode (encode i) = .ok i ∧
    (encode i &&& ~~~ w) = 0

/-- R90: bits that an instruction's rule does not name have no effect: Words that agree in the named fields decode alike. -/
def Obligations.UnusedFieldsIgnored : Prop :=
  ∀ w v : Word, opField w = opField v →
    ((opField w).toNat = 0 ∨ (opField w).toNat = 55 → decode w = decode v) ∧
    ((opField w).toNat ∈ [35, 36, 37, 38, 45, 48, 49, 50, 51, 52, 53] → s3 w = s3 v → decode w = decode v) ∧
    ((opField w).toNat ∈ [39, 40, 41] → s2 w = s2 v → s3 w = s3 v → decode w = decode v) ∧
    ((opField w).toNat ∈ [21, 22] → s1 w = s1 v → s2 w = s2 v → decode w = decode v) ∧
    ((opField w).toNat = 54 → a16 w = a16 v → decode w = decode v) ∧
    (1 ≤ (opField w).toNat → (opField w).toNat ≤ 19 → 3 < (s1 w).toNat → s1 w = s1 v → decode w = decode v)

/-- A few Words of 95_test_vectors.md section 2.12, written out from R80 to R89. -/
def Obligations.SampleWordsDecode : Prop :=
  decode 0x00000000 = .ok .halt ∧ decode 0x01000217 = .ok (.iadd 2 0 1) ∧ decode 0x12340514 = .ok (.lda 5 0x1234) ∧
  decode 0x03010120 = .ok (.fdiv 1 1 3) ∧ decode 0xFF00002D = .ok (.not 255) ∧ decode 0x000C022E = .ok (.getf 2 12) ∧
  decode 0x09070201 = .ok (.jmp (.sum 7 9)) ∧ decode 0xFFFA0304 = .ok (.ijl (.rel 0xFFFA)) ∧
  decode 0x02000027 = .ok (.icmp 0 2) ∧ decode 0x01000036 = .ok (.call 0x0100) ∧ decode 0x01000035 = .ok (.fprint 1)

/-! The step. -/

/-- A step of a running core at an instruction's Word is that instruction's meaning (R110). -/
def Obligations.StepRunsDecodedInstruction : Prop :=
  ∀ (s : State) (i : Instr), s.run = .running → wordInRange s.pc → decode (s.word s.pc) = .ok i → step s = exec i s

/-- R111: the Word fetched is the low cell at `pc` and the high cell at `pc + 1`, at odd and even `pc` alike; beyond 32766 the step
is the fault. -/
def Obligations.FetchWordOrFault : Prop :=
  (∀ s : State, s.run = .running → 32767 ≤ s.pc.toNat → step s = .next { s with run := .faulted .fetchBounds s.pc }) ∧
  (∀ (s : State) (i : Instr), s.run = .running → s.pc.toNat ≤ 32766 →
    decode (BitVec.ofNat 32 ((s.mem.cell s.pc.toNat).toNat + 2 ^ 16 * (s.mem.cell (s.pc.toNat + 1)).toNat)) = .ok i →
    step s = exec i s)

/-- R115 -/
def Obligations.ReservedOpcodeFaults : Prop :=
  ∀ s : State, s.run = .running → wordInRange s.pc → 56 ≤ (s.word s.pc).toNat % 256 →
    step s = .next { s with run := .faulted .illegalOpcode (BitVec.ofNat 16 ((s.word s.pc).toNat % 256)) }

/-- R91, R113: every Word with a zero low byte halts, and nothing but `RUN` changes. -/
def Obligations.HaltOnZeroOpcode : Prop :=
  (∀ w : Word, w.toNat % 256 = 0 → decode w = .ok .halt) ∧
  (∀ s : State, exec .halt s = .next { s with run := .halted }) ∧
  (∀ s : State, s.run = .running → wordInRange s.pc → (s.word s.pc).toNat % 256 = 0 → step s = .next { s with run := .halted })

/-- Which states have a step (R110, R117, R263): not those of a core that is halted or faulted, nor those of a blocked one; all
others; and a blocked one as soon as the environment appends a token. That having no step is a fault outcome is the model's choice,
log entries 3 and 4. -/
def Obligations.StoppedCoreHasNoStep : Prop :=
  (∀ s : State, s.run ≠ .running → ∃ f, step s = .fault f) ∧
  (∀ s : State, s.run = .running → Waits s → step s = .fault .coreBlocked) ∧
  (∀ s : State, s.run = .running → ¬ Waits s → ∃ t, step s = .next t) ∧
  (∀ (s : State) (ts : List Token), s.run = .running → Waits s → ts ≠ [] → ∃ t, step (s.appendInput ts) = .next t) ∧
  ∀ s : State, s.enabled = true ↔ ∃ t, step s = .next t

/-! Data movement. -/

/-- R131 -/
def Obligations.LdaLoadsAddress : Prop :=
  EncodesB 20 (fun r v => .lda r v) ∧
  ∀ (s : State) (r : Reg) (addr : Half), ∃ t, exec (.lda r addr) s = .next t ∧ t.reg r = addr ∧
    (∀ j, j ≠ r → t.reg j = s.reg j) ∧ MemorySame s t ∧ FlagsBecome s t [] ∧ RestSame s t ∧ t.pc = s.pc + 2

/-- R132 -/
def Obligations.MovCopiesWord : Prop :=
  EncodesA 21 (fun f1 f2 _ => .mov f1 f2) ∧
  (∀ s d a, ¬ wordInRange (s.reg a) → Raises (.mov d a) s .memBounds (s.reg a)) ∧
  (∀ s d a, wordInRange (s.reg a) → ¬ wordInRange (s.reg d) → Raises (.mov d a) s .memBounds (s.reg d)) ∧
  ∀ s d a, s.mem.wf = true → wordInRange (s.reg a) → wordInRange (s.reg d) →
    ∃ t, exec (.mov d a) s = .next t ∧ ResultStored s t d (s.val a) []

/-- R133 -/
def Obligations.LdpLoadsPointer : Prop :=
  EncodesA 22 (fun f1 f2 _ => .ldp f1 f2) ∧
  (∀ s d a, ¬ wordInRange (s.reg a) → Raises (.ldp d a) s .memBounds (s.reg a)) ∧
  ∀ s d a, wordInRange (s.reg a) →
    ∃ t, exec (.ldp d a) s = .next t ∧ (t.reg d).toNat = (s.val a).toNat % 2 ^ 16 ∧
      (∀ j, j ≠ d → t.reg j = s.reg j) ∧ MemorySame s t ∧ FlagsBecome s t [] ∧ RestSame s t ∧ t.pc = s.pc + 2

/-! Integer arithmetic. -/

/-- R143 -/
def Obligations.IaddResult : Prop :=
  ThreeRegister 23 .iadd (fun wa wb r => r.toNat = (wa.toNat + wb.toNat) % 2 ^ 32)
    (fun wa wb r => integerFlags r ++
      [(9, signedOverflow (wa.toInt + wb.toInt)), (10, decide (2 ^ 32 ≤ wa.toNat + wb.toNat))])

/-- R144 -/
def Obligations.IsubResult : Prop :=
  ThreeRegister 24 .isub (fun wa wb r => (r.toNat : Int) = ((wa.toNat : Int) - wb.toNat) % 2 ^ 32)
    (fun wa wb r => integerFlags r ++
      [(9, signedOverflow (wa.toInt - wb.toInt)), (10, decide (wa.toNat < wb.toNat))])

/-- R145 -/
def Obligations.ImulResult : Prop :=
  ThreeRegister 27 .imul (fun wa wb r => r.toNat = wa.toNat * wb.toNat % 2 ^ 32)
    (fun wa wb r => integerFlags r ++
      [(9, signedOverflow (wa.toInt * wb.toInt)), (10, decide (2 ^ 32 ≤ wa.toNat * wb.toNat))])

/-- R146: `V` is not written. -/
def Obligations.UmulResult : Prop :=
  ThreeRegister 28 .umul (fun wa wb r => r.toNat = wa.toNat * wb.toNat % 2 ^ 32)
    (fun wa wb r => integerFlags r ++ [(10, decide (2 ^ 32 ≤ wa.toNat * wb.toNat))])

/-- R148 -/
def Obligations.IdivResult : Prop :=
  ThreeRegister 30 .idiv
    (fun wa wb r => (r.toNat : Int) = (if wb.toInt = 0 then 0 else truncatedQuotient wa.toInt wb.toInt) % 2 ^ 32)
    (fun _ wb r => integerFlags r ++ [(12, decide (wb.toInt = 0))])

/-- R149 -/
def Obligations.UdivResult : Prop :=
  ThreeRegister 31 .udiv (fun wa wb r => r.toNat = if wb.toNat = 0 then 0 else wa.toNat / wb.toNat)
    (fun _ wb r => integerFlags r ++ [(12, decide (wb.toNat = 0))])

/-- R150 -/
def Obligations.ImodResult : Prop :=
  ThreeRegister 33 .imod
    (fun wa wb r => (r.toNat : Int) =
      (if wb.toInt = 0 then 0 else wa.toInt - wb.toInt * truncatedQuotient wa.toInt wb.toInt) % 2 ^ 32)
    (fun _ wb r => integerFlags r ++ [(12, decide (wb.toInt = 0))])

/-- R151 -/
def Obligations.UmodResult : Prop :=
  ThreeRegister 34 .umod (fun wa wb r => r.toNat = if wb.toNat = 0 then 0 else wa.toNat % wb.toNat)
    (fun _ wb r => integerFlags r ++ [(12, decide (wb.toNat = 0))])

/-- R152 -/
def Obligations.IncResult : Prop :=
  OneRegister 35 .inc (fun wa r => r.toNat = (wa.toNat + 1) % 2 ^ 32)
    (fun wa r => integerFlags r ++ [(9, decide (2 ^ 31 - 1 < wa.toInt + 1)), (10, decide (2 ^ 32 ≤ wa.toNat + 1))])

/-- R153 -/
def Obligations.DecResult : Prop :=
  OneRegister 36 .dec (fun wa r => (r.toNat : Int) = ((wa.toNat : Int) - 1) % 2 ^ 32)
    (fun wa r => integerFlags r ++ [(9, decide (wa.toInt - 1 < -2 ^ 31)), (10, decide (wa.toNat = 0))])

/-- R154: `V` and `C` keep their values. -/
def Obligations.InegResult : Prop :=
  OneRegister 37 .ineg (fun wa r => (r.toNat : Int) = (-wa.toInt) % 2 ^ 32 ∧ r.toNat = (2 ^ 32 - wa.toNat) % 2 ^ 32)
    (fun _ r => integerFlags r)

/-! Float arithmetic. -/

/-- R174 -/
def Obligations.FaddResult : Prop := FloatThreeRegister 25 .fadd IsSum

/-- R175 -/
def Obligations.FsubResult : Prop := FloatThreeRegister 26 .fsub (fun A B D => IsSum A (opposite B) D)

/-- R176 -/
def Obligations.FmulResult : Prop := FloatThreeRegister 29 .fmul IsProduct

/-- R178: `FO` is not written. -/
def Obligations.FdivResult : Prop :=
  ThreeRegister 32 .fdiv
    (fun wa wb r => ∃ D, IsQuotient (datum wa) (datum wb) D ∧ (D = .nan → isNaN r = true) ∧ (D ≠ .nan → datum r = D))
    (fun _ wb r => floatResultFlags r ++ [(12, decide (wb.toNat % 2 ^ 31 = 0))])

/-- R179 -/
def Obligations.FnegResult : Prop :=
  OneRegister 38 .fneg
    (fun wa r => r.toNat % 2 ^ 31 = wa.toNat % 2 ^ 31 ∧ r.getLsbD 31 = !wa.getLsbD 31 ∧ isNaN r = isNaN wa)
    (fun _ r => floatResultFlags r)

/-- R170: `RN24` and `RN53` round to nearest, ties to even, with gradual underflow and overflow to infinity. -/
def Obligations.RoundingIsNearestEven : Prop :=
  RoundsToNearestEven rn24 24 925 1202 ∧ RoundsToNearestEven rn53 53 0 2098

/-- R170: the binary32 datum of a Word, field by field, in units of 2^-1074 (log entry 19); a Word that is not a NaN is the Word of
its datum, and every binary32 magnitude is the datum of a Word. -/
def Obligations.DatumWordRoundTrip : Prop :=
  (∀ w : Word,
    let neg := decide (2 ^ 31 ≤ w.toNat)
    let e := w.toNat / 2 ^ 23 % 2 ^ 8
    let m := w.toNat % 2 ^ 23
    (e = 255 → m ≠ 0 → datum w = .nan) ∧ (e = 255 → m = 0 → datum w = .inf neg) ∧
    (e = 0 → datum w = .fin neg (m * 2 ^ (1074 - 149))) ∧
    (e ≠ 0 → e ≠ 255 → datum w = .fin neg ((2 ^ 23 + m) * 2 ^ (1074 - 23 + e - 127)))) ∧
  (∀ w : Word, isNaN w = false → wordOfDatum (datum w) = w) ∧
  ∀ neg q, Representable 24 925 q → q < 2 ^ 1202 → datum (wordOfDatum (.fin neg q)) = .fin neg q

/-- R176: the product of two finite binary32 values is exact in binary64 (m units of 2^-1074 are p*q units of 2^-2148). -/
def Obligations.ProductExactInBinary64 : Prop :=
  ∀ (wa wb : Word) (a b : Bool) (p q : Nat), datum wa = .fin a p → datum wb = .fin b q →
    ∃ m, mulDatum (datum wa) (datum wb) = .fin (a != b) m ∧ m * 2 ^ 1074 = p * q

/-- R177: for finite operands, computing in binary64 and then narrowing is rounding the exact result once. A sum or a difference that
is exactly zero is left out here: its sign is the business of `FaddResult` and `FsubResult`. -/
def Obligations.NarrowingRoundsOnce : Prop :=
  ∀ (wa wb : Word) (a b : Bool) (p q : Nat), datum wa = .fin a p → datum wb = .fin b q →
    (key (datum wa) + key (datum wb) ≠ 0 → narrow (addDatum (datum wa) (datum wb)) =
      rn24 (decide (key (datum wa) + key (datum wb) < 0)) (key (datum wa) + key (datum wb)).natAbs 1) ∧
    (key (datum wa) - key (datum wb) ≠ 0 → narrow (subDatum (datum wa) (datum wb)) =
      rn24 (decide (key (datum wa) - key (datum wb) < 0)) (key (datum wa) - key (datum wb)).natAbs 1) ∧
    narrow (mulDatum (datum wa) (datum wb)) = rn24 (a != b) (p * q) (2 ^ 1074)

/-! Compares. -/

/-- R191, R192 -/
def Obligations.IntegerCompareFlags : Prop :=
  Compare 39 .icmp (fun wa wb => [(2, decide (wa.toInt = wb.toInt)), (3, decide (wa.toInt > wb.toInt))]) ∧
  Compare 40 .ucmp (fun wa wb => [(4, decide (wa.toNat = wb.toNat)), (5, decide (wa.toNat > wb.toNat))])

/-- R193: IEEE equality and order; both flags 0 when an operand is a NaN. -/
def Obligations.FcmpFlags : Prop :=
  EncodesA 41 (fun _ f2 f3 => .fcmp f2 f3) ∧
  (∀ s a b, ¬ wordInRange (s.reg a) → Raises (.fcmp a b) s .memBounds (s.reg a)) ∧
  (∀ s a b, wordInRange (s.reg a) → ¬ wordInRange (s.reg b) → Raises (.fcmp a b) s .memBounds (s.reg b)) ∧
  ∀ s a b, wordInRange (s.reg a) → wordInRange (s.reg b) →
    ∃ t fe fg, exec (.fcmp a b) s = .next t ∧
      (fe = true ↔ ieeeEq (datum (s.val a)) (datum (s.val b))) ∧ (fg = true ↔ ieeeLt (datum (s.val b)) (datum (s.val a))) ∧
      FlagsBecome s t [(6, fe), (7, fg)] ∧ MemorySame s t ∧ RegistersSame s t ∧ RestSame s t ∧ t.pc = s.pc + 2

/-! Jumps. -/

/-- R200, with the four modes and the illegal ones (R194 to R199). -/
def Obligations.JmpTakesTarget : Prop := EncodesJ 1 .jmp ∧ TakesJump .jmp (fun _ => True)

/-- R202 to R207: the six signed jumps, and what they test after a signed compare. -/
def Obligations.SignedConditionalJumps : Prop :=
  SixJumps 2 2 3 .ije .ijg .ijl .ijne .ijge .ijle ∧
  ∀ (s t : State) (a b : Reg), wordInRange (s.reg a) → wordInRange (s.reg b) → exec (.icmp a b) s = .next t →
    let E := getFlag t.flags 2
    let G := getFlag t.flags 3
    let x := (s.val a).toInt
    let y := (s.val b).toInt
    (E = true ↔ x = y) ∧ (G = true ↔ x > y) ∧ ((!E && !G) = true ↔ x < y) ∧ ((!E) = true ↔ x ≠ y) ∧
    ((E || G) = true ↔ x ≥ y) ∧ ((!G) = true ↔ x ≤ y)

/-- R208 to R213: the six unsigned jumps, and what they test after an unsigned compare. -/
def Obligations.UnsignedConditionalJumps : Prop :=
  SixJumps 8 4 5 .uje .ujg .ujl .ujne .ujge .ujle ∧
  ∀ (s t : State) (a b : Reg), wordInRange (s.reg a) → wordInRange (s.reg b) → exec (.ucmp a b) s = .next t →
    let E := getFlag t.flags 4
    let G := getFlag t.flags 5
    let x := (s.val a).toNat
    let y := (s.val b).toNat
    (E = true ↔ x = y) ∧ (G = true ↔ x > y) ∧ ((!E && !G) = true ↔ x < y) ∧ ((!E) = true ↔ x ≠ y) ∧
    ((E || G) = true ↔ x ≥ y) ∧ ((!G) = true ↔ x ≤ y)

/-- R214 to R219: the six float jumps, and what they test after a float compare: unordered counts as less. -/
def Obligations.FloatConditionalJumps : Prop :=
  SixJumps 14 6 7 .fje .fjg .fjl .fjne .fjge .fjle ∧
  ∀ (s t : State) (a b : Reg), wordInRange (s.reg a) → wordInRange (s.reg b) → exec (.fcmp a b) s = .next t →
    let E := getFlag t.flags 6
    let G := getFlag t.flags 7
    let x := datum (s.val a)
    let y := datum (s.val b)
    (E = true ↔ ieeeEq x y) ∧ (G = true ↔ ieeeLt y x) ∧
    ((!E && !G) = true ↔ ieeeLt x y ∨ x = .nan ∨ y = .nan) ∧ ((!E) = true ↔ ¬ ieeeEq x y) ∧
    ((E || G) = true ↔ ieeeEq x y ∨ ieeeLt y x) ∧ ((!G) = true ↔ ¬ ieeeLt y x)

/-! Bitwise logic. -/

/-- R231 to R233: each of the 32 bit positions independently. -/
def Obligations.LogicResult : Prop :=
  ThreeRegister 42 .and (fun wa wb r => ∀ i, i < 32 → r.getLsbD i = (wa.getLsbD i && wb.getLsbD i)) (fun _ _ r => integerFlags r) ∧
  ThreeRegister 43 .or (fun wa wb r => ∀ i, i < 32 → r.getLsbD i = (wa.getLsbD i || wb.getLsbD i)) (fun _ _ r => integerFlags r) ∧
  ThreeRegister 44 .xor (fun wa wb r => ∀ i, i < 32 → r.getLsbD i = (wa.getLsbD i != wb.getLsbD i)) (fun _ _ r => integerFlags r)

/-- R234 -/
def Obligations.NotResult : Prop :=
  OneRegister 45 .not
    (fun wa r => (∀ i, i < 32 → r.getLsbD i = !wa.getLsbD i) ∧ r.toNat = 2 ^ 32 - 1 - wa.toNat) (fun _ r => integerFlags r)

/-! Flag transfer. -/

/-- R241 -/
def Obligations.GetfStoresFlag : Prop :=
  EncodesB 46 (fun r v => .getf r v) ∧
  (∀ (s : State) r (k : Half), 15 < k.toNat → Raises (.getf r k) s .illegalOperand k) ∧
  (∀ (s : State) r (k : Half), k.toNat ≤ 15 → ¬ wordInRange (s.reg r) → Raises (.getf r k) s .memBounds (s.reg r)) ∧
  ∀ (s : State) r (k : Half), s.mem.wf = true → k.toNat ≤ 15 → wordInRange (s.reg r) →
    ∃ t, exec (.getf r k) s = .next t ∧ ResultStored s t r (if getFlag s.flags k.toNat then 1 else 0) []

/-- R242 -/
def Obligations.SetfAssignsFlag : Prop :=
  EncodesB 47 (fun r v => .setf r v) ∧
  (∀ (s : State) r (k : Half), 15 < k.toNat → Raises (.setf r k) s .illegalOperand k) ∧
  (∀ (s : State) r (k : Half), k.toNat ≤ 15 → ¬ wordInRange (s.reg r) → Raises (.setf r k) s .memBounds (s.reg r)) ∧
  ∀ (s : State) r (k : Half), k.toNat ≤ 15 → wordInRange (s.reg r) →
    ∃ t, exec (.setf r k) s = .next t ∧ FlagsBecome s t [(k.toNat, decide ((s.val r).toNat ≠ 0))] ∧ MemorySame s t ∧
      RegistersSame s t ∧ RestSame s t ∧ t.pc = s.pc + 2

/-! Call and return. -/

/-- R251 -/
def Obligations.CallPushesReturn : Prop :=
  EncodesB 54 (fun _ v => .call v) ∧
  ∀ (s : State) (addr : Half), ∃ t, exec (.call addr) s = .next t ∧ t.pc = addr ∧
    (∀ j : Reg, t.reg j = if j.toNat = 240 + s.sp.toNat then s.pc + 2 else s.reg j) ∧
    t.sp.toNat = (s.sp.toNat + 1) % 16 ∧ MemorySame s t ∧ FlagsBecome s t [] ∧ t.run = s.run ∧ t.input = s.input ∧
    t.output = s.output

/-- R252 -/
def Obligations.RetPopsReturn : Prop :=
  EncodesA 55 (fun _ _ _ => .ret) ∧
  ∀ s : State, ∃ t, exec .ret s = .next t ∧ t.sp.toNat = (s.sp.toNat + 15) % 16 ∧
    (∀ j : Reg, j.toNat = 240 + t.sp.toNat → t.pc = s.reg j) ∧ RegistersSame s t ∧ MemorySame s t ∧ FlagsBecome s t [] ∧
    t.run = s.run ∧ t.input = s.input ∧ t.output = s.output

/-- R253 (a): up to 16 nested calls, whatever `SP` was, return to the addresses after them, innermost first. -/
def Obligations.NestedCallsReturn : Prop :=
  ∀ (s : State) (targets : List Half), targets.length ≤ 16 →
    ∃ t u ps, callAll targets s = some t ∧ returnAll targets.length t = some (ps, u) ∧
      ps = (returnAddresses s.pc targets).reverse ∧ u.sp = s.sp ∧
      t.sp.toNat = (s.sp.toNat + targets.length) % 16 ∧ MemorySame s u ∧ FlagsBecome s u []

/-- R253 (b): after 17 calls the 17 returns yield the addresses of calls 17, 16, ..., 2 and then call 17's again. -/
def Obligations.SeventeenthCallLosesFirst : Prop :=
  ∀ (s : State) (first : Half) (rest : List Half), rest.length = 16 →
    ∃ t u ps, callAll (first :: rest) s = some t ∧ returnAll 17 t = some (ps, u) ∧
      ps = (returnAddresses first rest).reverse ++ [(returnAddresses first rest).getLastD 0]

/-! Console. -/

/-- R262 to R266. That the read with no token, which has no step (R117, R263), answers the outcome `coreBlocked` is the model's
choice, log entry 4. -/
def Obligations.ConsoleReads : Prop :=
  ReadInstruction 48 .iread ∧ ReadInstruction 49 .uread ∧ ReadInstruction 50 .fread

/-- R267, R269 to R271. -/
def Obligations.ConsolePrints : Prop :=
  PrintInstruction 51 .iprint .signed ∧ PrintInstruction 52 .uprint .unsigned ∧ PrintInstruction 53 .fprint .float

/-! The whole machine. -/

/-- Every step keeps the canonical form of memory, and a fault it records has the information R281 gives its cause. -/
def Obligations.StepKeepsInvariant : Prop := ∀ s t : State, s.wf = true → step s = .next t → t.wf = true

/-- The invariant holds at reset. -/
def Obligations.ResetMeetsInvariant : Prop := State.reset.wf = true

/-- Every move, a step, a host act or arriving input, keeps the invariant from every state that meets it; so it holds in every state
that moves lead to from reset. -/
def Obligations.ReachableStatesMeetInvariant : Prop :=
  (∀ s t : State, s.wf = true → Move s t → t.wf = true) ∧ ∀ s : State, Reachable s → s.wf = true

/-- R282: a step that ends in a fault has changed nothing but `RUN`. -/
def Obligations.FaultsArePrecise : Prop :=
  ∀ (s t : State) (c : Cause) (info : Half), step s = .next t → t.run = .faulted c info →
    t = { s with run := .faulted c info } ∧ t.faultRecord = some (c, info, s.pc)

/-- R30: no instruction writes a flag that the matrix does not give it. -/
def Obligations.FlagWriteMatrix : Prop :=
  ∀ (i : Instr) (s t : State), exec i s = .next t → ∀ k, k ∉ flagsWritten i → getFlag t.flags k = getFlag s.flags k

/-- R23, R31, R272 and R113 turned round: what each kind of hidden or addressed state says of the instruction that changed it. -/
def Obligations.StateHasOneWriter : Prop :=
  ∀ (i : Instr) (s t : State), exec i s = .next t →
    (∀ j, t.reg j ≠ s.reg j → (∃ addr, i = .lda j addr) ∨ (∃ src, i = .ldp j src) ∨
      ∃ addr, i = .call addr ∧ j.toNat = 240 + s.sp.toNat) ∧
    (t.sp ≠ s.sp → (∃ addr, i = .call addr) ∨ i = .ret) ∧
    (t.input ≠ s.input → isRead i ∧ ∃ w, s.input = .ok w :: t.input) ∧
    (t.output ≠ s.output → ∃ k w, printKind i k ∧ t.output = s.output ++ [⟨k, w⟩]) ∧
    (t.run = .halted → s.run ≠ .halted → i = .halt)

/-- R38: the values reset leaves, most of them the spec's decisions D27, D29, D32 (log entry 7). `IN` is the environment's, and not
said here. -/
def Obligations.ResetValues : Prop :=
  (∀ c, State.reset.mem.cell c = 0) ∧ (∀ j, State.reset.reg j = 0) ∧ State.reset.flags = 0 ∧ State.reset.sp = 0 ∧
  State.reset.pc = 0 ∧ State.reset.run = .halted ∧ State.reset.output = []

/-- R320, R321: load and clear, from outside, while the core does not run. That a refusal names its reason is the model's choice,
log entry 12. -/
def Obligations.HostMemoryAccess : Prop :=
  (∀ s addr w, s.run = .running → hostWriteWord s addr w = .refused .hostWhileRunning ∧
    hostReadWord s addr = .refused .hostWhileRunning ∧ hostClear s = .refused .hostWhileRunning) ∧
  (∀ s addr w, s.run ≠ .running → 32766 < addr.toNat →
    hostWriteWord s addr w = .refused .hostAddress ∧ hostReadWord s addr = .refused .hostAddress) ∧
  (∀ s addr w, s.run ≠ .running → addr.toNat ≤ 32766 → s.mem.wf = true →
    ∃ t, hostWriteWord s addr w = .next t ∧ hostReadWord t addr = .next w ∧ StoresWord s t addr w ∧
      t = { s with mem := t.mem }) ∧
  (∀ s, s.run ≠ .running → ∃ t, hostClear s = .next t ∧ (∀ c, t.mem.cell c = 0) ∧ t = { s with mem := t.mem })

/-- R320, R322: start, and the first step after it. That a refused start names its reason is the model's choice, log entry 12. -/
def Obligations.HostStartRuns : Prop :=
  (∀ s entry, s.run = .running → hostStart s entry = .refused .hostWhileRunning) ∧
  (∀ s entry, s.run ≠ .running → hostStart s entry = .next { s with pc := entry, run := .running }) ∧
  (∀ s t entry, hostStart s entry = .next t → 32766 < entry.toNat →
    step t = .next { t with run := .faulted .fetchBounds entry }) ∧
  (∀ s t entry i, hostStart s entry = .next t → entry.toNat ≤ 32766 → decode (s.word entry) = .ok i → step t = exec i t)
end

