-- ==== Sys2Proof/Laws/Decode.lean ====
section
/-! SUPPORT. The encoded Word as a number, and its fields. -/

namespace Sys2Proof

/-- A bit vector in front of another is worth its value shifted past the other. -/
theorem toNat_append_eq {n m : Nat} (x : BitVec n) (y : BitVec m) : (x ++ y).toNat = x.toNat * 2 ^ m + y.toNat := by
  rw [BitVec.toNat_append, ← Nat.shiftLeft_add_eq_or_of_lt y.isLt, Nat.shiftLeft_eq]

section formats
variable (op f1 f2 f3 : Slot) (v : Half)

/-- R81 -/
theorem formatA_toNat :
    (formatA op f1 f2 f3).toNat = op.toNat + 2 ^ 8 * f1.toNat + 2 ^ 16 * f2.toNat + 2 ^ 24 * f3.toNat := by
  simp only [formatA, toNat_append_eq]
  omega

/-- R82 -/
theorem formatB_toNat : (formatB op f1 v).toNat = op.toNat + 2 ^ 8 * f1.toNat + 2 ^ 16 * v.toNat := by
  simp only [formatB, toNat_append_eq]
  omega

theorem field_toNat (w : Word) (k n : Nat) : (w.extractLsb' k n).toNat = w.toNat / 2 ^ k % 2 ^ n := by
  rw [BitVec.extractLsb'_toNat, Nat.shiftRight_eq_div_pow]

@[simp] theorem opField_formatA : opField (formatA op f1 f2 f3) = op := by
  apply BitVec.eq_of_toNat_eq
  rw [opField, field_toNat, formatA_toNat]
  omega

@[simp] theorem s1_formatA : s1 (formatA op f1 f2 f3) = f1 := by
  apply BitVec.eq_of_toNat_eq
  rw [s1, field_toNat, formatA_toNat]
  omega

@[simp] theorem s2_formatA : s2 (formatA op f1 f2 f3) = f2 := by
  apply BitVec.eq_of_toNat_eq
  rw [s2, field_toNat, formatA_toNat]
  omega

@[simp] theorem s3_formatA : s3 (formatA op f1 f2 f3) = f3 := by
  apply BitVec.eq_of_toNat_eq
  rw [s3, field_toNat, formatA_toNat]
  omega

@[simp] theorem opField_formatB : opField (formatB op f1 v) = op := by
  apply BitVec.eq_of_toNat_eq
  rw [opField, field_toNat, formatB_toNat]
  omega

@[simp] theorem s1_formatB : s1 (formatB op f1 v) = f1 := by
  apply BitVec.eq_of_toNat_eq
  rw [s1, field_toNat, formatB_toNat]
  omega

@[simp] theorem a16_formatB : a16 (formatB op f1 v) = v := by
  apply BitVec.eq_of_toNat_eq
  rw [a16, field_toNat, formatB_toNat]
  omega

/-- R84: the opcode of a jump Word is in its place whatever the mode. -/
@[simp] theorem opField_formatJ (t : Target) : opField (formatJ op t) = op := by
  cases t <;> simp [formatJ]

end formats
end Sys2Proof
end

