-- ==== Sys2Proof/Laws/State.lean ====
section
/-! SUPPORT. One lemma per field per update of the state, and the register file's read after write. -/

namespace Sys2Proof.Machine

@[simp] theorem State.setReg_x (s : State) (i : Reg) (v : Half) : (s.setReg i v).x = s.x.set i.toNat v i.isLt := rfl
@[simp] theorem State.setReg_pc (s : State) (i : Reg) (v : Half) : (s.setReg i v).pc = s.pc := rfl
@[simp] theorem State.setReg_flags (s : State) (i : Reg) (v : Half) : (s.setReg i v).flags = s.flags := rfl
@[simp] theorem State.setReg_sp (s : State) (i : Reg) (v : Half) : (s.setReg i v).sp = s.sp := rfl
@[simp] theorem State.setReg_run (s : State) (i : Reg) (v : Half) : (s.setReg i v).run = s.run := rfl
@[simp] theorem State.setReg_mem (s : State) (i : Reg) (v : Half) : (s.setReg i v).mem = s.mem := rfl
@[simp] theorem State.setReg_input (s : State) (i : Reg) (v : Half) : (s.setReg i v).input = s.input := rfl
@[simp] theorem State.setReg_output (s : State) (i : Reg) (v : Half) : (s.setReg i v).output = s.output := rfl

@[simp] theorem State.setPc_x (s : State) (v : Half) : (s.setPc v).x = s.x := rfl
@[simp] theorem State.setPc_pc (s : State) (v : Half) : (s.setPc v).pc = v := rfl
@[simp] theorem State.setPc_flags (s : State) (v : Half) : (s.setPc v).flags = s.flags := rfl
@[simp] theorem State.setPc_sp (s : State) (v : Half) : (s.setPc v).sp = s.sp := rfl
@[simp] theorem State.setPc_run (s : State) (v : Half) : (s.setPc v).run = s.run := rfl
@[simp] theorem State.setPc_mem (s : State) (v : Half) : (s.setPc v).mem = s.mem := rfl
@[simp] theorem State.setPc_input (s : State) (v : Half) : (s.setPc v).input = s.input := rfl
@[simp] theorem State.setPc_output (s : State) (v : Half) : (s.setPc v).output = s.output := rfl

@[simp] theorem State.setFlags_x (s : State) (v : Half) : (s.setFlags v).x = s.x := rfl
@[simp] theorem State.setFlags_pc (s : State) (v : Half) : (s.setFlags v).pc = s.pc := rfl
@[simp] theorem State.setFlags_flags (s : State) (v : Half) : (s.setFlags v).flags = v := rfl
@[simp] theorem State.setFlags_sp (s : State) (v : Half) : (s.setFlags v).sp = s.sp := rfl
@[simp] theorem State.setFlags_run (s : State) (v : Half) : (s.setFlags v).run = s.run := rfl
@[simp] theorem State.setFlags_mem (s : State) (v : Half) : (s.setFlags v).mem = s.mem := rfl
@[simp] theorem State.setFlags_input (s : State) (v : Half) : (s.setFlags v).input = s.input := rfl
@[simp] theorem State.setFlags_output (s : State) (v : Half) : (s.setFlags v).output = s.output := rfl

@[simp] theorem State.setSp_x (s : State) (v : BitVec 4) : (s.setSp v).x = s.x := rfl
@[simp] theorem State.setSp_pc (s : State) (v : BitVec 4) : (s.setSp v).pc = s.pc := rfl
@[simp] theorem State.setSp_flags (s : State) (v : BitVec 4) : (s.setSp v).flags = s.flags := rfl
@[simp] theorem State.setSp_sp (s : State) (v : BitVec 4) : (s.setSp v).sp = v := rfl
@[simp] theorem State.setSp_run (s : State) (v : BitVec 4) : (s.setSp v).run = s.run := rfl
@[simp] theorem State.setSp_mem (s : State) (v : BitVec 4) : (s.setSp v).mem = s.mem := rfl
@[simp] theorem State.setSp_input (s : State) (v : BitVec 4) : (s.setSp v).input = s.input := rfl
@[simp] theorem State.setSp_output (s : State) (v : BitVec 4) : (s.setSp v).output = s.output := rfl

@[simp] theorem State.setRun_x (s : State) (v : Run) : (s.setRun v).x = s.x := rfl
@[simp] theorem State.setRun_pc (s : State) (v : Run) : (s.setRun v).pc = s.pc := rfl
@[simp] theorem State.setRun_flags (s : State) (v : Run) : (s.setRun v).flags = s.flags := rfl
@[simp] theorem State.setRun_sp (s : State) (v : Run) : (s.setRun v).sp = s.sp := rfl
@[simp] theorem State.setRun_run (s : State) (v : Run) : (s.setRun v).run = v := rfl
@[simp] theorem State.setRun_mem (s : State) (v : Run) : (s.setRun v).mem = s.mem := rfl
@[simp] theorem State.setRun_input (s : State) (v : Run) : (s.setRun v).input = s.input := rfl
@[simp] theorem State.setRun_output (s : State) (v : Run) : (s.setRun v).output = s.output := rfl

@[simp] theorem State.setMem_x (s : State) (v : Memory) : (s.setMem v).x = s.x := rfl
@[simp] theorem State.setMem_pc (s : State) (v : Memory) : (s.setMem v).pc = s.pc := rfl
@[simp] theorem State.setMem_flags (s : State) (v : Memory) : (s.setMem v).flags = s.flags := rfl
@[simp] theorem State.setMem_sp (s : State) (v : Memory) : (s.setMem v).sp = s.sp := rfl
@[simp] theorem State.setMem_run (s : State) (v : Memory) : (s.setMem v).run = s.run := rfl
@[simp] theorem State.setMem_mem (s : State) (v : Memory) : (s.setMem v).mem = v := rfl
@[simp] theorem State.setMem_input (s : State) (v : Memory) : (s.setMem v).input = s.input := rfl
@[simp] theorem State.setMem_output (s : State) (v : Memory) : (s.setMem v).output = s.output := rfl

@[simp] theorem State.setInput_x (s : State) (v : List Token) : (s.setInput v).x = s.x := rfl
@[simp] theorem State.setInput_pc (s : State) (v : List Token) : (s.setInput v).pc = s.pc := rfl
@[simp] theorem State.setInput_flags (s : State) (v : List Token) : (s.setInput v).flags = s.flags := rfl
@[simp] theorem State.setInput_sp (s : State) (v : List Token) : (s.setInput v).sp = s.sp := rfl
@[simp] theorem State.setInput_run (s : State) (v : List Token) : (s.setInput v).run = s.run := rfl
@[simp] theorem State.setInput_mem (s : State) (v : List Token) : (s.setInput v).mem = s.mem := rfl
@[simp] theorem State.setInput_input (s : State) (v : List Token) : (s.setInput v).input = v := rfl
@[simp] theorem State.setInput_output (s : State) (v : List Token) : (s.setInput v).output = s.output := rfl

@[simp] theorem State.setOutput_x (s : State) (v : List Event) : (s.setOutput v).x = s.x := rfl
@[simp] theorem State.setOutput_pc (s : State) (v : List Event) : (s.setOutput v).pc = s.pc := rfl
@[simp] theorem State.setOutput_flags (s : State) (v : List Event) : (s.setOutput v).flags = s.flags := rfl
@[simp] theorem State.setOutput_sp (s : State) (v : List Event) : (s.setOutput v).sp = s.sp := rfl
@[simp] theorem State.setOutput_run (s : State) (v : List Event) : (s.setOutput v).run = s.run := rfl
@[simp] theorem State.setOutput_mem (s : State) (v : List Event) : (s.setOutput v).mem = s.mem := rfl
@[simp] theorem State.setOutput_input (s : State) (v : List Event) : (s.setOutput v).input = s.input := rfl
@[simp] theorem State.setOutput_output (s : State) (v : List Event) : (s.setOutput v).output = v := rfl

/-! Registers read through `State.reg`. -/

@[simp] theorem State.setPc_reg (s : State) (v : Half) (j : Reg) : (s.setPc v).reg j = s.reg j := rfl
@[simp] theorem State.setFlags_reg (s : State) (v : Half) (j : Reg) : (s.setFlags v).reg j = s.reg j := rfl
@[simp] theorem State.setSp_reg (s : State) (v : BitVec 4) (j : Reg) : (s.setSp v).reg j = s.reg j := rfl
@[simp] theorem State.setRun_reg (s : State) (v : Run) (j : Reg) : (s.setRun v).reg j = s.reg j := rfl
@[simp] theorem State.setMem_reg (s : State) (v : Memory) (j : Reg) : (s.setMem v).reg j = s.reg j := rfl
@[simp] theorem State.setInput_reg (s : State) (v : List Token) (j : Reg) : (s.setInput v).reg j = s.reg j := rfl
@[simp] theorem State.setOutput_reg (s : State) (v : List Event) (j : Reg) : (s.setOutput v).reg j = s.reg j := rfl

/-- R9: a register reads as written, every other register as before. -/
theorem State.setReg_reg (s : State) (i : Reg) (v : Half) (j : Reg) :
    (s.setReg i v).reg j = if j = i then v else s.reg j := by
  simp only [State.reg, State.setReg, Vector.getElem_set, BitVec.toNat_inj]
  by_cases h : i = j <;> simp [h, eq_comm]

@[simp] theorem State.setReg_reg_self (s : State) (i : Reg) (v : Half) : (s.setReg i v).reg i = v := by
  simp [State.setReg_reg]

/-- Two register files that read alike are equal. -/
theorem State.x_ext (s t : State) (h : ∀ j, s.reg j = t.reg j) : s.x = t.x := by
  apply Vector.ext
  intro i hi
  have := h (BitVec.ofNat 8 i)
  simp only [State.reg, BitVec.toNat_ofNat] at this
  have e : i % 2 ^ 8 = i := Nat.mod_eq_of_lt (by omega)
  simpa only [e] using this

/-! The named combinations of updates. -/

@[simp] theorem State.advance_x (s : State) : (s.advance).x = s.x := rfl
@[simp] theorem State.advance_pc (s : State) : (s.advance).pc = s.pc + 2 := rfl
@[simp] theorem State.advance_flags (s : State) : (s.advance).flags = s.flags := rfl
@[simp] theorem State.advance_sp (s : State) : (s.advance).sp = s.sp := rfl
@[simp] theorem State.advance_run (s : State) : (s.advance).run = s.run := rfl
@[simp] theorem State.advance_mem (s : State) : (s.advance).mem = s.mem := rfl
@[simp] theorem State.advance_input (s : State) : (s.advance).input = s.input := rfl
@[simp] theorem State.advance_output (s : State) : (s.advance).output = s.output := rfl
@[simp] theorem State.advance_reg (s : State) (j : Reg) : (s.advance).reg j = s.reg j := rfl

@[simp] theorem State.takeFault_x (s : State) (c : Cause) (info : Half) : (s.takeFault c info).x = s.x := rfl
@[simp] theorem State.takeFault_pc (s : State) (c : Cause) (info : Half) : (s.takeFault c info).pc = s.pc := rfl
@[simp] theorem State.takeFault_flags (s : State) (c : Cause) (info : Half) : (s.takeFault c info).flags = s.flags := rfl
@[simp] theorem State.takeFault_sp (s : State) (c : Cause) (info : Half) : (s.takeFault c info).sp = s.sp := rfl
@[simp] theorem State.takeFault_run (s : State) (c : Cause) (info : Half) : (s.takeFault c info).run = .faulted c info := rfl
@[simp] theorem State.takeFault_mem (s : State) (c : Cause) (info : Half) : (s.takeFault c info).mem = s.mem := rfl
@[simp] theorem State.takeFault_input (s : State) (c : Cause) (info : Half) : (s.takeFault c info).input = s.input := rfl
@[simp] theorem State.takeFault_output (s : State) (c : Cause) (info : Half) : (s.takeFault c info).output = s.output := rfl
@[simp] theorem State.takeFault_reg (s : State) (c : Cause) (info : Half) (j : Reg) : (s.takeFault c info).reg j = s.reg j := rfl

@[simp] theorem State.setVal_x (s : State) (r : Reg) (w : Word) : (s.setVal r w).x = s.x := rfl
@[simp] theorem State.setVal_pc (s : State) (r : Reg) (w : Word) : (s.setVal r w).pc = s.pc := rfl
@[simp] theorem State.setVal_flags (s : State) (r : Reg) (w : Word) : (s.setVal r w).flags = s.flags := rfl
@[simp] theorem State.setVal_sp (s : State) (r : Reg) (w : Word) : (s.setVal r w).sp = s.sp := rfl
@[simp] theorem State.setVal_run (s : State) (r : Reg) (w : Word) : (s.setVal r w).run = s.run := rfl
@[simp] theorem State.setVal_mem (s : State) (r : Reg) (w : Word) : (s.setVal r w).mem = s.mem.setWord (s.reg r) w := rfl
@[simp] theorem State.setVal_input (s : State) (r : Reg) (w : Word) : (s.setVal r w).input = s.input := rfl
@[simp] theorem State.setVal_output (s : State) (r : Reg) (w : Word) : (s.setVal r w).output = s.output := rfl
@[simp] theorem State.setVal_reg (s : State) (r : Reg) (w : Word) (j : Reg) : (s.setVal r w).reg j = s.reg j := rfl

@[simp] theorem State.push_x (s : State) (v : Half) : (s.push v).x = s.x.set (ringSlot s.sp).toNat v (ringSlot s.sp).isLt := rfl
@[simp] theorem State.push_pc (s : State) (v : Half) : (s.push v).pc = s.pc := rfl
@[simp] theorem State.push_flags (s : State) (v : Half) : (s.push v).flags = s.flags := rfl
@[simp] theorem State.push_sp (s : State) (v : Half) : (s.push v).sp = s.sp + 1 := rfl
@[simp] theorem State.push_run (s : State) (v : Half) : (s.push v).run = s.run := rfl
@[simp] theorem State.push_mem (s : State) (v : Half) : (s.push v).mem = s.mem := rfl
@[simp] theorem State.push_input (s : State) (v : Half) : (s.push v).input = s.input := rfl
@[simp] theorem State.push_output (s : State) (v : Half) : (s.push v).output = s.output := rfl

@[simp] theorem State.appendInput_x (s : State) (ts : List Token) : (s.appendInput ts).x = s.x := rfl
@[simp] theorem State.appendInput_pc (s : State) (ts : List Token) : (s.appendInput ts).pc = s.pc := rfl
@[simp] theorem State.appendInput_flags (s : State) (ts : List Token) : (s.appendInput ts).flags = s.flags := rfl
@[simp] theorem State.appendInput_sp (s : State) (ts : List Token) : (s.appendInput ts).sp = s.sp := rfl
@[simp] theorem State.appendInput_run (s : State) (ts : List Token) : (s.appendInput ts).run = s.run := rfl
@[simp] theorem State.appendInput_mem (s : State) (ts : List Token) : (s.appendInput ts).mem = s.mem := rfl
@[simp] theorem State.appendInput_input (s : State) (ts : List Token) : (s.appendInput ts).input = s.input ++ ts := rfl
@[simp] theorem State.appendInput_output (s : State) (ts : List Token) : (s.appendInput ts).output = s.output := rfl
@[simp] theorem State.appendInput_reg (s : State) (ts : List Token) (j : Reg) : (s.appendInput ts).reg j = s.reg j := rfl

@[simp] theorem State.placeWord_x (s : State) (w : Word) : (s.placeWord w).x = s.x := rfl
@[simp] theorem State.placeWord_pc (s : State) (w : Word) : (s.placeWord w).pc = if wordInRange s.pc then s.pc else 0 := rfl
@[simp] theorem State.placeWord_flags (s : State) (w : Word) : (s.placeWord w).flags = s.flags := rfl
@[simp] theorem State.placeWord_sp (s : State) (w : Word) : (s.placeWord w).sp = s.sp := rfl
@[simp] theorem State.placeWord_run (s : State) (w : Word) : (s.placeWord w).run = .running := rfl
@[simp] theorem State.placeWord_mem (s : State) (w : Word) : (s.placeWord w).mem = s.mem.setWord (if wordInRange s.pc then s.pc else 0) w := rfl
@[simp] theorem State.placeWord_input (s : State) (w : Word) : (s.placeWord w).input = s.input := rfl
@[simp] theorem State.placeWord_output (s : State) (w : Word) : (s.placeWord w).output = s.output := rfl
@[simp] theorem State.placeWord_reg (s : State) (w : Word) (j : Reg) : (s.placeWord w).reg j = s.reg j := rfl

@[simp] theorem State.pop_fst (s : State) : s.pop.1 = s.reg (ringSlot (s.sp - 1)) := rfl
@[simp] theorem State.pop_snd (s : State) : s.pop.2 = s.setSp (s.sp - 1) := rfl

/-- R250: a push changes the register `x[240 + SP]` and no other. -/
theorem State.push_reg (s : State) (v : Half) (j : Reg) :
    (s.push v).reg j = if j = ringSlot s.sp then v else s.reg j := by
  simp [State.push, State.setReg_reg]

/-- Different values of `SP` name different registers of the ring (R31). -/
theorem ringSlot_inj (p q : BitVec 4) : ringSlot p = ringSlot q ↔ p = q := by
  revert p q; decide

/-- The ring is registers 240..255 (R24, R31). -/
theorem ringSlot_toNat (p : BitVec 4) : (ringSlot p).toNat = 240 + p.toNat := by
  revert p; decide

end Sys2Proof.Machine
end

