-- ==== Sys2Proof/Laws/Flags.lean ====
section
/-! SUPPORT. What the flag operations leave in each bit. -/

namespace Sys2Proof.Machine

/-- R29: one bit assigned, the others unchanged. -/
theorem getFlag_setFlag (f : Half) (k : Nat) (b : Bool) (j : Nat) (hk : k < 16) :
    getFlag (setFlag f k b) j = if j = k then b else getFlag f j := by
  unfold getFlag setFlag
  have hone : (1#16 <<< k).getLsbD j = decide (j = k) := by
    rw [BitVec.getLsbD_shiftLeft, BitVec.getLsbD_one]
    by_cases h1 : j < k
    · simp [h1, show j ≠ k by omega]
    · by_cases h2 : j = k
      · subst h2; simp [hk]
      · simp [h2, show ¬ (j - k = 0) by omega]
  cases b
  · simp only [Bool.false_eq_true, if_false, BitVec.getLsbD_and, BitVec.getLsbD_not, hone]
    by_cases h2 : j = k
    · simp [h2]
    · by_cases h3 : j < 16
      · simp [h2, h3]
      · simp [h2, h3, BitVec.getLsbD_of_ge f j (by omega)]
  · simp only [if_true, BitVec.getLsbD_or, hone]
    by_cases h2 : j = k <;> simp [h2]

/-- Two flag registers that agree in every bit are equal. -/
theorem flags_ext (f g : Half) (h : ∀ j, j < 16 → getFlag f j = getFlag g j) : f = g :=
  BitVec.eq_of_getLsbD_eq fun j hj => h j hj

/-- R141: `intflags` writes `Z`, `P`, `S` and nothing else. -/
theorem getFlag_intFlags (f : Half) (r : Word) (j : Nat) :
    getFlag (intFlags f r) j =
      if j = flagS then r.getLsbD 31 else if j = flagP then parity r else if j = flagZ then r == 0 else getFlag f j := by
  rw [intFlags, getFlag_setFlag _ flagS _ _ (by decide), getFlag_setFlag _ flagP _ _ (by decide), getFlag_setFlag _ flagZ _ _ (by decide)]

/-- R142: `V` and `C`. -/
theorem getFlag_overflowFlags (f : Half) (S U : Int) (r : Word) (j : Nat) :
    getFlag (overflowFlags f S U r) j =
      if j = flagC then U != (r.toNat : Int) else if j = flagV then S != r.toInt else getFlag f j := by
  rw [overflowFlags, getFlag_setFlag _ flagC _ _ (by decide), getFlag_setFlag _ flagV _ _ (by decide)]

theorem getFlag_carryFlag (f : Half) (U : Int) (r : Word) (j : Nat) :
    getFlag (carryFlag f U r) j = if j = flagC then U != (r.toNat : Int) else getFlag f j := by
  rw [carryFlag, getFlag_setFlag _ flagC _ _ (by decide)]

theorem getFlag_divZeroFlag (f : Half) (b : Bool) (j : Nat) :
    getFlag (divZeroFlag f b) j = if j = flagDZ then b else getFlag f j := by
  rw [divZeroFlag, getFlag_setFlag _ flagDZ _ _ (by decide)]

/-- R190: a compare assigns the two flags of its pair. -/
theorem getFlag_compareFlags (f : Half) (e : Nat) (b g : Bool) (j : Nat) (he : e + 1 < 16) :
    getFlag (compareFlags f e b g) j = if j = e + 1 then g else if j = e then b else getFlag f j := by
  rw [compareFlags, getFlag_setFlag _ _ _ _ he, getFlag_setFlag _ _ _ _ (by omega)]

/-- R172: `floatflags` writes `Z` and `S` and nothing else. -/
theorem getFlag_floatFlags (f : Half) (r : Word) (j : Nat) :
    getFlag (floatFlags f r) j =
      if j = flagS then (datum r).ltIeee (.fin false 0)
      else if j = flagZ then (datum r).eqIeee (.fin false 0) else getFlag f j := by
  rw [floatFlags, getFlag_setFlag _ flagS _ _ (by decide), getFlag_setFlag _ flagZ _ _ (by decide)]

theorem getFlag_floatOverflowFlag (f : Half) (D : Datum) (r : Word) (j : Nat) :
    getFlag (floatOverflowFlag f D r) j = if j = flagFO then !D.eqIeee (datum r) else getFlag f j := by
  rw [floatOverflowFlag, getFlag_setFlag _ flagFO _ _ (by decide)]

end Sys2Proof.Machine
end

