-- ==== Sys2Proof/Laws/Float.lean ====
section
/-! SUPPORT. NaN, signed zero and the datum of a Word. -/

namespace Sys2Proof.Machine

/-- A Word is a NaN exactly when its datum is (R170). -/
theorem isNaN_iff (w : Word) : isNaN w = true ↔ datum w = .nan := by
  have h8 : ∀ y : BitVec 8, (y == 255) = true ↔ y.toNat = 255 := fun y => by
    rw [beq_iff_eq, ← BitVec.toNat_inj]; rfl
  have h23 : ∀ y : BitVec 23, (y != 0) = true ↔ ¬ y.toNat = 0 := fun y => by
    rw [bne_iff_ne, ne_eq, ← BitVec.toNat_inj]; rfl
  unfold isNaN datum
  simp only [Bool.and_eq_true, h8, h23]
  by_cases h1 : (w.extractLsb' 23 8).toNat = 255 <;> by_cases h2 : (w.extractLsb' 0 23).toNat = 0 <;>
    simp only [h1, h2, if_true, if_false, not_true, not_false_eq_true, and_true, and_false, reduceCtorEq]
  all_goals (split <;> exact ⟨nofun, nofun⟩)

/-- The one constraint on `NAN_RESULT` (R173). -/
theorem isNaN_nanResult (op : FloatOp) (wa wb : Word) : isNaN (nanResult op wa wb) = true := by
  unfold nanResult
  split
  · assumption
  · decide

@[simp] theorem datum_nanResult (op : FloatOp) (wa wb : Word) : datum (nanResult op wa wb) = .nan :=
  (isNaN_iff _).mp (isNaN_nanResult op wa wb)

/-- A NaN is equal to nothing and before or after nothing (R170). -/
@[simp] theorem Datum.eqIeee_nan_left (b : Datum) : Datum.nan.eqIeee b = false := by cases b <;> rfl
@[simp] theorem Datum.eqIeee_nan_right (a : Datum) : a.eqIeee .nan = false := by cases a <;> rfl
@[simp] theorem Datum.ltIeee_nan_left (b : Datum) : Datum.nan.ltIeee b = false := by cases b <;> rfl
@[simp] theorem Datum.ltIeee_nan_right (a : Datum) : a.ltIeee .nan = false := by cases a <;> rfl

@[simp] theorem narrow_nan : narrow .nan = .nan := rfl
@[simp] theorem narrow_inf (neg : Bool) : narrow (.inf neg) = .inf neg := rfl
@[simp] theorem resultWord_nan (op : FloatOp) (wa wb : Word) : resultWord op wa wb .nan = nanResult op wa wb := rfl

/-- The two infinities read back as themselves. -/
@[simp] theorem datum_wordOfDatum_inf (neg : Bool) : datum (wordOfDatum (.inf neg)) = .inf neg := by
  cases neg <;> decide

end Sys2Proof.Machine
end

