-- ==== Sys2Proof/Laws/Memory.lean ====
section
/-! SUPPORT. Memory: the canonical form is kept, and reads after writes. -/

namespace Sys2Proof.Machine

theorem Memory.wfFrom_mono {m : Memory} {l k : Nat} (h : l ≤ k) (hk : Memory.wfFrom k m = true) : Memory.wfFrom l m = true := by
  cases m with
  | nil => rfl
  | cons p m =>
    simp only [Memory.wfFrom, Bool.and_eq_true, decide_eq_true_eq] at hk ⊢
    obtain ⟨⟨⟨h1, h2⟩, h3⟩, h4⟩ := hk
    exact ⟨⟨⟨by omega, h2⟩, h3⟩, h4⟩

/-- In canonical form every address below the bound reads 0. -/
theorem Memory.cell_below {m : Memory} {l a : Nat} (h : Memory.wfFrom l m = true) (ha : a < l) : m.cell a = 0#16 := by
  induction m generalizing l with
  | nil => rfl
  | cons p m ih =>
    obtain ⟨b, u⟩ := p
    simp only [Memory.wfFrom, Bool.and_eq_true, decide_eq_true_eq] at h
    obtain ⟨⟨⟨h1, h2⟩, h3⟩, h4⟩ := h
    have : a ≠ b := by omega
    simp only [Memory.cell, this, if_false]
    exact ih h4 (by omega)

/-- A cell write keeps the canonical form. -/
theorem Memory.wfFrom_setCell {m : Memory} {l a : Nat} {v : Half} (h : Memory.wfFrom l m = true) (hl : l ≤ a) (ha : a < 32768) :
    Memory.wfFrom l (m.setCell a v) = true := by
  induction m generalizing l with
  | nil =>
    by_cases hv : v = 0#16 <;> simp [Memory.setCell, Memory.wfFrom, hv, hl, ha]
  | cons p m ih =>
    obtain ⟨b, u⟩ := p
    have h' := h
    simp only [Memory.wfFrom, Bool.and_eq_true, decide_eq_true_eq] at h
    obtain ⟨⟨⟨h1, h2⟩, h3⟩, h4⟩ := h
    simp only [Memory.setCell]
    split
    · split
      · exact h'
      · simp only [Memory.wfFrom, Bool.and_eq_true, decide_eq_true_eq]
        exact ⟨⟨⟨hl, ha⟩, ‹_›⟩, ⟨⟨by omega, h2⟩, h3⟩, h4⟩
    · split
      · split
        · exact Memory.wfFrom_mono (by omega) h4
        · simp only [Memory.wfFrom, Bool.and_eq_true, decide_eq_true_eq]
          exact ⟨⟨⟨hl, ha⟩, ‹_›⟩, by subst_vars; exact h4⟩
      · simp only [Memory.wfFrom, Bool.and_eq_true, decide_eq_true_eq]
        exact ⟨⟨⟨h1, h2⟩, h3⟩, ih h4 (by omega)⟩

theorem Memory.wf_setCell {m : Memory} {a : Nat} {v : Half} (h : m.wf = true) (ha : a < 32768) : (m.setCell a v).wf = true :=
  Memory.wfFrom_setCell h (Nat.zero_le _) ha

/-- A Word write keeps the canonical form. -/
theorem Memory.wf_setWord {m : Memory} {a : Half} {w : Word} (h : m.wf = true) (ha : wordInRange a) : (m.setWord a w).wf = true :=
  Memory.wf_setCell (Memory.wf_setCell h (by unfold wordInRange at ha; omega)) (by unfold wordInRange at ha; omega)

@[simp] theorem Memory.wf_nil : Memory.wf [] = true := rfl

theorem Memory.cell_setCell_from {m : Memory} {l : Nat} (h : Memory.wfFrom l m = true) (a : Nat) (v : Half) (c : Nat) :
    (m.setCell a v).cell c = if c = a then v else m.cell c := by
  induction m generalizing l with
  | nil => by_cases hv : v = 0#16 <;> by_cases hc : c = a <;> simp [Memory.setCell, Memory.cell, hv, hc]
  | cons p m ih =>
    obtain ⟨b, u⟩ := p
    simp only [Memory.wfFrom, Bool.and_eq_true, decide_eq_true_eq] at h
    obtain ⟨⟨⟨h1, h2⟩, h3⟩, h4⟩ := h
    have ih := ih h4
    simp only [Memory.setCell]
    split
    · have hb : Memory.cell m a = 0#16 := Memory.cell_below h4 (by omega)
      split
      · by_cases hc : c = a
        · subst hc
          simp_all [Memory.cell, show c ≠ b by omega]
        · simp [hc]
      · by_cases hc : c = a <;> simp [Memory.cell, hc]
    · split
      · subst_vars
        have hb : Memory.cell m b = 0#16 := Memory.cell_below h4 (by omega)
        split
        · by_cases hc : c = b
          · subst hc; simp_all
          · simp [Memory.cell, hc]
        · by_cases hc : c = b <;> simp [Memory.cell, hc]
      · by_cases hc : c = b
        · subst hc
          simp [Memory.cell, show c ≠ a by omega]
        · simp [Memory.cell, hc, ih]

/-- A cell reads as written, every other cell as before. -/
theorem Memory.cell_setCell {m : Memory} (h : m.wf = true) (a : Nat) (v : Half) (c : Nat) :
    (m.setCell a v).cell c = if c = a then v else m.cell c :=
  Memory.cell_setCell_from h a v c

/-- A Word write sets two cells, low half first, and no other (R51, R53). -/
theorem Memory.cell_setWord {m : Memory} (h : m.wf = true) {a : Half} (ha : wordInRange a) (w : Word) (c : Nat) :
    (m.setWord a w).cell c = if c = a.toNat then lo w else if c = a.toNat + 1 then hi w else m.cell c := by
  have h1 : (m.setCell a.toNat (lo w)).wf = true := Memory.wf_setCell h (by unfold wordInRange at ha; omega)
  simp only [Memory.setWord, Memory.cell_setCell h1, Memory.cell_setCell h]
  by_cases hc : c = a.toNat
  · subst hc; simp
  · simp [hc]

@[simp] theorem hi_append_lo (w : Word) : hi w ++ lo w = w := by
  apply BitVec.eq_of_toNat_eq
  simp only [hi, lo, BitVec.toNat_append, BitVec.extractLsb'_toNat]
  rw [← Nat.shiftLeft_add_eq_or_of_lt (by omega), Nat.shiftLeft_eq, Nat.shiftRight_eq_div_pow]
  have := w.isLt
  omega

/-- R53: a Word reads back as written. -/
theorem Memory.word_setWord_self {m : Memory} (h : m.wf = true) {a : Half} (ha : wordInRange a) (w : Word) :
    (m.setWord a w).word a = w := by
  simp [Memory.word, Memory.cell_setWord h ha]

/-- A Word whose two cells a write does not touch reads as before. -/
theorem Memory.word_setWord_other {m : Memory} (h : m.wf = true) {a b : Half} (ha : wordInRange a) (w : Word)
    (hab : a.toNat + 1 < b.toNat ∨ b.toNat + 1 < a.toNat) : (m.setWord a w).word b = m.word b := by
  simp only [Memory.word, Memory.cell_setWord h ha]
  rw [if_neg (by omega), if_neg (by omega), if_neg (by omega), if_neg (by omega)]

/-! The checked accesses. -/

theorem memRead_of_inRange (m : Memory) {a : Half} (h : wordInRange a) : memRead m a = some (m.word a) := if_pos h
theorem memRead_of_not_inRange (m : Memory) {a : Half} (h : ¬ wordInRange a) : memRead m a = none := if_neg h
theorem memWrite_of_inRange (m : Memory) {a : Half} (w : Word) (h : wordInRange a) : memWrite m a w = some (m.setWord a w) := if_pos h
theorem memWrite_of_not_inRange (m : Memory) {a : Half} (w : Word) (h : ¬ wordInRange a) : memWrite m a w = none := if_neg h

end Sys2Proof.Machine
end

