-- ==== Sys2Proof/Laws/Operands.lean ====
section
/-! SUPPORT. What each shared shape does: once in full, then as cases of a next state. -/

namespace Sys2Proof.Machine

variable {s t : State}

@[simp] theorem raise_eq (s : State) (c : Cause) (info : Half) : raise s c info = .next (s.takeFault c info) := rfl

/-! The operand checks. -/

theorem withVal_inRange {i : Reg} (h : wordInRange (s.reg i)) (k : Word → Result) : withVal s i k = k (s.val i) := by
  simp [withVal, memRead_of_inRange _ h, State.val, State.word]

theorem withVal_outOfRange {i : Reg} (h : ¬ wordInRange (s.reg i)) (k : Word → Result) :
    withVal s i k = .next (s.takeFault .memBounds (s.reg i)) := by
  simp [withVal, memRead_of_not_inRange _ h]

theorem withDest_inRange {i : Reg} (h : wordInRange (s.reg i)) (k : Result) : withDest s i k = k := if_pos h

theorem withDest_outOfRange {i : Reg} (h : ¬ wordInRange (s.reg i)) (k : Result) :
    withDest s i k = .next (s.takeFault .memBounds (s.reg i)) := if_neg h

theorem withFlagIndex_legal {k : Half} (h : k.toNat ≤ 15) (r : Result) : withFlagIndex s k r = r := if_pos h

theorem withFlagIndex_illegal {k : Half} (h : ¬ k.toNat ≤ 15) (r : Result) :
    withFlagIndex s k r = .next (s.takeFault .illegalOperand k) := if_neg h

/-! The shapes, as cases: where one answers a next state, these are all it can be. -/

/-- The sources are checked before the destination (R140, R283). -/
theorem binaryOp_cases {f : Word → Word → Half → Word × Half} {d a b : Reg} (h : binaryOp f d a b s = .next t) :
    (wordInRange (s.reg a) ∧ wordInRange (s.reg b) ∧ wordInRange (s.reg d) ∧
      t = ((s.setFlags (f (s.val a) (s.val b) s.flags).2).setVal d (f (s.val a) (s.val b) s.flags).1).advance) ∨
    (∃ i, (i = a ∨ i = b ∨ i = d) ∧ ¬ wordInRange (s.reg i) ∧ t = s.takeFault .memBounds (s.reg i)) := by
  unfold binaryOp at h
  by_cases ha : wordInRange (s.reg a)
  · rw [withVal_inRange ha] at h
    by_cases hb : wordInRange (s.reg b)
    · rw [withVal_inRange hb] at h
      by_cases hd : wordInRange (s.reg d)
      · rw [withDest_inRange hd] at h
        exact .inl ⟨ha, hb, hd, (Host.Outcome.next.inj h).symm⟩
      · rw [withDest_outOfRange hd] at h
        exact .inr ⟨d, by simp, hd, (Host.Outcome.next.inj h).symm⟩
    · rw [withVal_outOfRange hb] at h
      exact .inr ⟨b, by simp, hb, (Host.Outcome.next.inj h).symm⟩
  · rw [withVal_outOfRange ha] at h
    exact .inr ⟨a, by simp, ha, (Host.Outcome.next.inj h).symm⟩

theorem unaryOp_cases {f : Word → Half → Word × Half} {r : Reg} (h : unaryOp f r s = .next t) :
    (wordInRange (s.reg r) ∧ t = ((s.setFlags (f (s.val r) s.flags).2).setVal r (f (s.val r) s.flags).1).advance) ∨
    (¬ wordInRange (s.reg r) ∧ t = s.takeFault .memBounds (s.reg r)) := by
  unfold unaryOp at h
  by_cases hr : wordInRange (s.reg r)
  · rw [withVal_inRange hr] at h
    exact .inl ⟨hr, (Host.Outcome.next.inj h).symm⟩
  · rw [withVal_outOfRange hr] at h
    exact .inr ⟨hr, (Host.Outcome.next.inj h).symm⟩

theorem compareOp_cases {f : Word → Word → Half → Half} {a b : Reg} (h : compareOp f a b s = .next t) :
    (wordInRange (s.reg a) ∧ wordInRange (s.reg b) ∧ t = (s.setFlags (f (s.val a) (s.val b) s.flags)).advance) ∨
    (∃ i, (i = a ∨ i = b) ∧ ¬ wordInRange (s.reg i) ∧ t = s.takeFault .memBounds (s.reg i)) := by
  unfold compareOp at h
  by_cases ha : wordInRange (s.reg a)
  · rw [withVal_inRange ha] at h
    by_cases hb : wordInRange (s.reg b)
    · rw [withVal_inRange hb] at h
      exact .inl ⟨ha, hb, (Host.Outcome.next.inj h).symm⟩
    · rw [withVal_outOfRange hb] at h
      exact .inr ⟨b, by simp, hb, (Host.Outcome.next.inj h).symm⟩
  · rw [withVal_outOfRange ha] at h
    exact .inr ⟨a, by simp, ha, (Host.Outcome.next.inj h).symm⟩

/-- A taken jump sets `pc` and nothing else, or faults with an illegal mode or an address out of range (R194, R200). -/
theorem jumpTo_cases {g : Target} (h : jumpTo g s = .next t) :
    (∃ p, t = s.setPc p) ∨
    (∃ mode, g = .illegal mode ∧ t = s.takeFault .illegalOperand (mode.setWidth 16)) ∨
    (∃ addr, g = .ind addr ∧ ¬ wordInRange addr ∧ t = s.takeFault .memBounds addr) := by
  unfold jumpTo withTarget at h
  cases g with
  | abs addr => exact .inl ⟨addr, (Host.Outcome.next.inj h).symm⟩
  | ind addr =>
    by_cases hr : wordInRange addr
    · simp only [memRead_of_inRange _ hr] at h
      exact .inl ⟨_, (Host.Outcome.next.inj h).symm⟩
    · simp only [memRead_of_not_inRange _ hr] at h
      exact .inr (.inr ⟨addr, rfl, hr, (Host.Outcome.next.inj h).symm⟩)
  | sum ra rb => exact .inl ⟨_, (Host.Outcome.next.inj h).symm⟩
  | rel off => exact .inl ⟨_, (Host.Outcome.next.inj h).symm⟩
  | illegal mode => exact .inr (.inl ⟨mode, rfl, (Host.Outcome.next.inj h).symm⟩)

/-- A conditional jump is the taken jump or an advance (R201). -/
theorem jumpIf_cases {c : Bool} {g : Target} (h : jumpIf c g s = .next t) :
    (c = true ∧ jumpTo g s = .next t) ∨ (c = false ∧ t = s.advance) := by
  cases c with
  | true => exact .inl ⟨rfl, h⟩
  | false => exact .inr ⟨rfl, (Host.Outcome.next.inj h).symm⟩

/-- With no token a console read has no step (R263). -/
theorem consoleRead_blocked {r : Reg} (hr : wordInRange (s.reg r)) (hi : s.input = []) :
    consoleRead r s = .fault .coreBlocked := by
  rw [consoleRead, withDest_inRange hr, hi]

/-- A console read that steps stores a token's Word or faults (R262). -/
theorem consoleRead_cases {r : Reg} (h : consoleRead r s = .next t) :
    (∃ w rest, wordInRange (s.reg r) ∧ s.input = .ok w :: rest ∧ t = ((s.setInput rest).setVal r w).advance) ∨
    (∃ rest, wordInRange (s.reg r) ∧ s.input = .bad :: rest ∧ t = s.takeFault .inputError 0) ∨
    (¬ wordInRange (s.reg r) ∧ t = s.takeFault .memBounds (s.reg r)) := by
  unfold consoleRead at h
  by_cases hr : wordInRange (s.reg r)
  · rw [withDest_inRange hr] at h
    cases hi : s.input with
    | nil =>
      rw [hi] at h
      cases h
    | cons tok rest =>
      rw [hi] at h
      cases tok with
      | bad => exact .inr (.inl ⟨rest, hr, rfl, (Host.Outcome.next.inj h).symm⟩)
      | ok w => exact .inl ⟨w, rest, hr, rfl, (Host.Outcome.next.inj h).symm⟩
  · rw [withDest_outOfRange hr] at h
    exact .inr (.inr ⟨hr, (Host.Outcome.next.inj h).symm⟩)

theorem consolePrint_cases {k : Kind} {r : Reg} (h : consolePrint k r s = .next t) :
    (wordInRange (s.reg r) ∧ t = (s.setOutput (s.output ++ [⟨k, s.val r⟩])).advance) ∨
    (¬ wordInRange (s.reg r) ∧ t = s.takeFault .memBounds (s.reg r)) := by
  unfold consolePrint at h
  by_cases hr : wordInRange (s.reg r)
  · rw [withVal_inRange hr] at h
    exact .inl ⟨hr, (Host.Outcome.next.inj h).symm⟩
  · rw [withVal_outOfRange hr] at h
    exact .inr ⟨hr, (Host.Outcome.next.inj h).symm⟩

theorem execMov_cases {d src : Reg} (h : execMov d src s = .next t) :
    (wordInRange (s.reg src) ∧ wordInRange (s.reg d) ∧ t = (s.setVal d (s.val src)).advance) ∨
    (∃ i, (i = src ∨ i = d) ∧ ¬ wordInRange (s.reg i) ∧ t = s.takeFault .memBounds (s.reg i)) := by
  unfold execMov at h
  by_cases hs : wordInRange (s.reg src)
  · rw [withVal_inRange hs] at h
    by_cases hd : wordInRange (s.reg d)
    · rw [withDest_inRange hd] at h
      exact .inl ⟨hs, hd, (Host.Outcome.next.inj h).symm⟩
    · rw [withDest_outOfRange hd] at h
      exact .inr ⟨d, by simp, hd, (Host.Outcome.next.inj h).symm⟩
  · rw [withVal_outOfRange hs] at h
    exact .inr ⟨src, by simp, hs, (Host.Outcome.next.inj h).symm⟩

theorem execLdp_cases {d src : Reg} (h : execLdp d src s = .next t) :
    (wordInRange (s.reg src) ∧ t = (s.setReg d (lo (s.val src))).advance) ∨
    (¬ wordInRange (s.reg src) ∧ t = s.takeFault .memBounds (s.reg src)) := by
  unfold execLdp at h
  by_cases hs : wordInRange (s.reg src)
  · rw [withVal_inRange hs] at h
    exact .inl ⟨hs, (Host.Outcome.next.inj h).symm⟩
  · rw [withVal_outOfRange hs] at h
    exact .inr ⟨hs, (Host.Outcome.next.inj h).symm⟩

theorem execGetf_cases {r : Reg} {k : Half} (h : execGetf r k s = .next t) :
    (k.toNat ≤ 15 ∧ wordInRange (s.reg r) ∧ t = (s.setVal r (if getFlag s.flags k.toNat then 1 else 0)).advance) ∨
    (¬ k.toNat ≤ 15 ∧ t = s.takeFault .illegalOperand k) ∨
    (k.toNat ≤ 15 ∧ ¬ wordInRange (s.reg r) ∧ t = s.takeFault .memBounds (s.reg r)) := by
  unfold execGetf at h
  by_cases hk : k.toNat ≤ 15
  · rw [withFlagIndex_legal hk] at h
    by_cases hr : wordInRange (s.reg r)
    · rw [withDest_inRange hr] at h
      exact .inl ⟨hk, hr, (Host.Outcome.next.inj h).symm⟩
    · rw [withDest_outOfRange hr] at h
      exact .inr (.inr ⟨hk, hr, (Host.Outcome.next.inj h).symm⟩)
  · rw [withFlagIndex_illegal hk] at h
    exact .inr (.inl ⟨hk, (Host.Outcome.next.inj h).symm⟩)

theorem execSetf_cases {r : Reg} {k : Half} (h : execSetf r k s = .next t) :
    (k.toNat ≤ 15 ∧ wordInRange (s.reg r) ∧ t = (s.setFlags (setFlag s.flags k.toNat (s.val r != 0))).advance) ∨
    (¬ k.toNat ≤ 15 ∧ t = s.takeFault .illegalOperand k) ∨
    (k.toNat ≤ 15 ∧ ¬ wordInRange (s.reg r) ∧ t = s.takeFault .memBounds (s.reg r)) := by
  unfold execSetf at h
  by_cases hk : k.toNat ≤ 15
  · rw [withFlagIndex_legal hk] at h
    by_cases hr : wordInRange (s.reg r)
    · rw [withVal_inRange hr] at h
      exact .inl ⟨hk, hr, (Host.Outcome.next.inj h).symm⟩
    · rw [withVal_outOfRange hr] at h
      exact .inr (.inr ⟨hk, hr, (Host.Outcome.next.inj h).symm⟩)
  · rw [withFlagIndex_illegal hk] at h
    exact .inr (.inl ⟨hk, (Host.Outcome.next.inj h).symm⟩)

end Sys2Proof.Machine
end

