-- ==== Sys2Proof/Laws/PerInstr.lean ====
section
/-! SUPPORT. Families over the instructions as syntax, one lemma per constructor. -/

namespace Sys2Proof.Laws

/-- R87: the low 8 bits of an instruction's Word are its opcode number. -/
def EncodedOpcode.Statement (i : Instr) : Prop := opField (encode i) = i.opcode

theorem EncodedOpcode.halt : EncodedOpcode.Statement (.halt) := opField_formatA _ _ _ _
theorem EncodedOpcode.jmp (t : Target) : EncodedOpcode.Statement (.jmp t) := opField_formatJ _ _
theorem EncodedOpcode.ije (t : Target) : EncodedOpcode.Statement (.ije t) := opField_formatJ _ _
theorem EncodedOpcode.ijg (t : Target) : EncodedOpcode.Statement (.ijg t) := opField_formatJ _ _
theorem EncodedOpcode.ijl (t : Target) : EncodedOpcode.Statement (.ijl t) := opField_formatJ _ _
theorem EncodedOpcode.ijne (t : Target) : EncodedOpcode.Statement (.ijne t) := opField_formatJ _ _
theorem EncodedOpcode.ijge (t : Target) : EncodedOpcode.Statement (.ijge t) := opField_formatJ _ _
theorem EncodedOpcode.ijle (t : Target) : EncodedOpcode.Statement (.ijle t) := opField_formatJ _ _
theorem EncodedOpcode.uje (t : Target) : EncodedOpcode.Statement (.uje t) := opField_formatJ _ _
theorem EncodedOpcode.ujg (t : Target) : EncodedOpcode.Statement (.ujg t) := opField_formatJ _ _
theorem EncodedOpcode.ujl (t : Target) : EncodedOpcode.Statement (.ujl t) := opField_formatJ _ _
theorem EncodedOpcode.ujne (t : Target) : EncodedOpcode.Statement (.ujne t) := opField_formatJ _ _
theorem EncodedOpcode.ujge (t : Target) : EncodedOpcode.Statement (.ujge t) := opField_formatJ _ _
theorem EncodedOpcode.ujle (t : Target) : EncodedOpcode.Statement (.ujle t) := opField_formatJ _ _
theorem EncodedOpcode.fje (t : Target) : EncodedOpcode.Statement (.fje t) := opField_formatJ _ _
theorem EncodedOpcode.fjg (t : Target) : EncodedOpcode.Statement (.fjg t) := opField_formatJ _ _
theorem EncodedOpcode.fjl (t : Target) : EncodedOpcode.Statement (.fjl t) := opField_formatJ _ _
theorem EncodedOpcode.fjne (t : Target) : EncodedOpcode.Statement (.fjne t) := opField_formatJ _ _
theorem EncodedOpcode.fjge (t : Target) : EncodedOpcode.Statement (.fjge t) := opField_formatJ _ _
theorem EncodedOpcode.fjle (t : Target) : EncodedOpcode.Statement (.fjle t) := opField_formatJ _ _
theorem EncodedOpcode.lda (r : Reg) (v : Half) : EncodedOpcode.Statement (.lda r v) := opField_formatB _ _ _
theorem EncodedOpcode.mov (d : Reg) (s : Reg) : EncodedOpcode.Statement (.mov d s) := opField_formatA _ _ _ _
theorem EncodedOpcode.ldp (d : Reg) (s : Reg) : EncodedOpcode.Statement (.ldp d s) := opField_formatA _ _ _ _
theorem EncodedOpcode.iadd (d : Reg) (a : Reg) (b : Reg) : EncodedOpcode.Statement (.iadd d a b) := opField_formatA _ _ _ _
theorem EncodedOpcode.isub (d : Reg) (a : Reg) (b : Reg) : EncodedOpcode.Statement (.isub d a b) := opField_formatA _ _ _ _
theorem EncodedOpcode.fadd (d : Reg) (a : Reg) (b : Reg) : EncodedOpcode.Statement (.fadd d a b) := opField_formatA _ _ _ _
theorem EncodedOpcode.fsub (d : Reg) (a : Reg) (b : Reg) : EncodedOpcode.Statement (.fsub d a b) := opField_formatA _ _ _ _
theorem EncodedOpcode.imul (d : Reg) (a : Reg) (b : Reg) : EncodedOpcode.Statement (.imul d a b) := opField_formatA _ _ _ _
theorem EncodedOpcode.umul (d : Reg) (a : Reg) (b : Reg) : EncodedOpcode.Statement (.umul d a b) := opField_formatA _ _ _ _
theorem EncodedOpcode.fmul (d : Reg) (a : Reg) (b : Reg) : EncodedOpcode.Statement (.fmul d a b) := opField_formatA _ _ _ _
theorem EncodedOpcode.idiv (d : Reg) (a : Reg) (b : Reg) : EncodedOpcode.Statement (.idiv d a b) := opField_formatA _ _ _ _
theorem EncodedOpcode.udiv (d : Reg) (a : Reg) (b : Reg) : EncodedOpcode.Statement (.udiv d a b) := opField_formatA _ _ _ _
theorem EncodedOpcode.fdiv (d : Reg) (a : Reg) (b : Reg) : EncodedOpcode.Statement (.fdiv d a b) := opField_formatA _ _ _ _
theorem EncodedOpcode.imod (d : Reg) (a : Reg) (b : Reg) : EncodedOpcode.Statement (.imod d a b) := opField_formatA _ _ _ _
theorem EncodedOpcode.umod (d : Reg) (a : Reg) (b : Reg) : EncodedOpcode.Statement (.umod d a b) := opField_formatA _ _ _ _
theorem EncodedOpcode.inc (r : Reg) : EncodedOpcode.Statement (.inc r) := opField_formatA _ _ _ _
theorem EncodedOpcode.dec (r : Reg) : EncodedOpcode.Statement (.dec r) := opField_formatA _ _ _ _
theorem EncodedOpcode.ineg (r : Reg) : EncodedOpcode.Statement (.ineg r) := opField_formatA _ _ _ _
theorem EncodedOpcode.fneg (r : Reg) : EncodedOpcode.Statement (.fneg r) := opField_formatA _ _ _ _
theorem EncodedOpcode.icmp (a : Reg) (b : Reg) : EncodedOpcode.Statement (.icmp a b) := opField_formatA _ _ _ _
theorem EncodedOpcode.ucmp (a : Reg) (b : Reg) : EncodedOpcode.Statement (.ucmp a b) := opField_formatA _ _ _ _
theorem EncodedOpcode.fcmp (a : Reg) (b : Reg) : EncodedOpcode.Statement (.fcmp a b) := opField_formatA _ _ _ _
theorem EncodedOpcode.and (d : Reg) (a : Reg) (b : Reg) : EncodedOpcode.Statement (.and d a b) := opField_formatA _ _ _ _
theorem EncodedOpcode.or (d : Reg) (a : Reg) (b : Reg) : EncodedOpcode.Statement (.or d a b) := opField_formatA _ _ _ _
theorem EncodedOpcode.xor (d : Reg) (a : Reg) (b : Reg) : EncodedOpcode.Statement (.xor d a b) := opField_formatA _ _ _ _
theorem EncodedOpcode.not (r : Reg) : EncodedOpcode.Statement (.not r) := opField_formatA _ _ _ _
theorem EncodedOpcode.getf (r : Reg) (v : Half) : EncodedOpcode.Statement (.getf r v) := opField_formatB _ _ _
theorem EncodedOpcode.setf (r : Reg) (v : Half) : EncodedOpcode.Statement (.setf r v) := opField_formatB _ _ _
theorem EncodedOpcode.iread (r : Reg) : EncodedOpcode.Statement (.iread r) := opField_formatA _ _ _ _
theorem EncodedOpcode.uread (r : Reg) : EncodedOpcode.Statement (.uread r) := opField_formatA _ _ _ _
theorem EncodedOpcode.fread (r : Reg) : EncodedOpcode.Statement (.fread r) := opField_formatA _ _ _ _
theorem EncodedOpcode.iprint (r : Reg) : EncodedOpcode.Statement (.iprint r) := opField_formatA _ _ _ _
theorem EncodedOpcode.uprint (r : Reg) : EncodedOpcode.Statement (.uprint r) := opField_formatA _ _ _ _
theorem EncodedOpcode.fprint (r : Reg) : EncodedOpcode.Statement (.fprint r) := opField_formatA _ _ _ _
theorem EncodedOpcode.call (v : Half) : EncodedOpcode.Statement (.call v) := opField_formatB _ _ _
theorem EncodedOpcode.ret : EncodedOpcode.Statement (.ret) := opField_formatA _ _ _ _

end Sys2Proof.Laws
end

