-- ==== Sys2Proof/Laws/Step.lean ====
section
/-! SUPPORT. What a step can be, said once. -/

namespace Sys2Proof.Machine

theorem fetchDecode_inRange {s : State} (h : wordInRange s.pc) :
    fetchDecode s = (match decode (s.word s.pc) with
      | .ok i => .instr i
      | .error (.reservedOpcode op) => .reserved op) := by
  unfold fetchDecode
  rw [memRead_of_inRange _ h]
  rfl

theorem fetchDecode_outOfRange {s : State} (h : ¬ wordInRange s.pc) : fetchDecode s = .outOfRange := by
  simp [fetchDecode, memRead_of_not_inRange _ h]

/-- An instruction is fetched exactly where `pc` is in range and the Word there decodes to it (R111, R112). -/
theorem fetchDecode_instr_iff {s : State} {i : Instr} :
    fetchDecode s = .instr i ↔ wordInRange s.pc ∧ decode (s.word s.pc) = .ok i := by
  by_cases h : wordInRange s.pc
  · rw [fetchDecode_inRange h]
    cases hd : decode (s.word s.pc) with
    | ok j => simp [h]
    | error e => cases e; simp
  · rw [fetchDecode_outOfRange h]
    simp [h]

/-- A step that answers a next state was taken by a running core, and is one of three (R110). -/
theorem step_cases {s t : State} (h : step s = .next t) :
    s.run = .running ∧
    ((¬ wordInRange s.pc ∧ t = s.takeFault .fetchBounds s.pc) ∨
     (∃ op, wordInRange s.pc ∧ decode (s.word s.pc) = .error (.reservedOpcode op) ∧
        t = s.takeFault .illegalOpcode (op.setWidth 16)) ∨
     (∃ i, wordInRange s.pc ∧ decode (s.word s.pc) = .ok i ∧ exec i s = .next t)) := by
  unfold step at h
  cases hr : s.run with
  | halted => rw [hr] at h; cases h
  | faulted c i => rw [hr] at h; cases h
  | running =>
    rw [hr] at h
    refine ⟨rfl, ?_⟩
    unfold cycle at h
    by_cases hp : wordInRange s.pc
    · rw [fetchDecode_inRange hp] at h
      cases hd : decode (s.word s.pc) with
      | ok i => rw [hd] at h; exact .inr (.inr ⟨i, hp, rfl, h⟩)
      | error e =>
        cases e with
        | reservedOpcode op => rw [hd] at h; exact .inr (.inl ⟨op, hp, rfl, (Host.Outcome.next.inj h).symm⟩)
    · rw [fetchDecode_outOfRange hp] at h
      exact .inl ⟨hp, (Host.Outcome.next.inj h).symm⟩

/-- The console reads and their request kinds (R264 to R266). -/
theorem readKind_eq_some {i : Instr} {k : Kind} {r : Reg} :
    readKind i = some (k, r) ↔
      (i = .iread r ∧ k = .signed) ∨ (i = .uread r ∧ k = .unsigned) ∨ (i = .fread r ∧ k = .float) := by
  cases i <;> simp [readKind] <;> tauto

/-- When a running core is blocked (R117, R263): at a console read whose destination is in range, with no token. -/
theorem State.blocked_iff {s : State} (hr : s.run = .running) :
    s.blocked = true ↔ wordInRange s.pc ∧ s.input = [] ∧
      ∃ i k r, decode (s.word s.pc) = .ok i ∧ readKind i = some (k, r) ∧ wordInRange (s.reg r) := by
  rw [State.blocked, Bool.and_eq_true, List.isEmpty_iff]
  cases hf : fetchDecode s with
  | instr i =>
    obtain ⟨hp, hd⟩ := fetchDecode_instr_iff.mp hf
    cases hk : readKind i with
    | none => simp [readRequest, hr, hf, hk, hd]
    | some kr =>
      obtain ⟨k, r⟩ := kr
      simp [readRequest, hr, hf, hk, hd, hp, and_comm]
  | outOfRange =>
    have : ¬ (wordInRange s.pc ∧ ∃ i, decode (s.word s.pc) = .ok i) := fun ⟨hp, i, hd⟩ => by
      rw [fetchDecode_instr_iff.mpr ⟨hp, hd⟩] at hf; cases hf
    simp only [readRequest, hr, hf, Option.isSome_none, Bool.false_eq_true, false_and, false_iff]
    exact fun ⟨hp, _, i, _, _, hd, _⟩ => this ⟨hp, i, hd⟩
  | reserved op =>
    have : ¬ (wordInRange s.pc ∧ ∃ i, decode (s.word s.pc) = .ok i) := fun ⟨hp, i, hd⟩ => by
      rw [fetchDecode_instr_iff.mpr ⟨hp, hd⟩] at hf; cases hf
    simp only [readRequest, hr, hf, Option.isSome_none, Bool.false_eq_true, false_and, false_iff]
    exact fun ⟨hp, _, i, _, _, hd, _⟩ => this ⟨hp, i, hd⟩

end Sys2Proof.Machine
end

