-- ==== Sys2Proof/Machine/ConsoleText.lean ====
section
/-! DEFINITION. The console refined to text: the line of an output event (R268), the token of an input line (R261). The core
itself works on Words (R260); nothing in `step` uses this file. -/

namespace Sys2Proof.Machine

/-- The text of an event, line feed included (R268). -/
def renderEvent (e : Event) : String :=
  (match e.kind with
    | .signed => toString e.word.toInt
    | .unsigned => toString e.word.toNat
    | .float => Config.renderFloat e.word) ++ "\n"

/-- The number a non-empty run of decimal digits stands for. -/
def digitsValue : List Char → Option Nat
  | [] => none
  | c :: cs => (c :: cs).foldl (fun acc d => acc.bind fun n => if d.isDigit then some (10 * n + (d.toNat - 48)) else none) (some 0)

/-- A blank at an end of a line. -/
def isBlank (c : Char) : Bool := c == ' ' || c == '\t'

/-- The line without leading and trailing blanks. -/
def stripBlanks (l : List Char) : List Char := ((l.dropWhile isBlank).reverse.dropWhile isBlank).reverse

/-- An optional sign, whether it is `+`, whether it is `-`, and the rest. -/
def splitSign : List Char → Bool × Bool × List Char
  | '+' :: cs => (true, false, cs)
  | '-' :: cs => (false, true, cs)
  | cs => (false, false, cs)

/-- A non-empty run of decimal digits. -/
def isDigits (l : List Char) : Bool := !l.isEmpty && l.all Char.isDigit

/-- The digits of an exponent, with an optional sign. -/
def isExponent (l : List Char) : Bool := isDigits (splitSign l).2.2

/-- The part before the first point, and the part after it if there is a point. -/
def splitPoint (l : List Char) : List Char × Option (List Char) :=
  match l.dropWhile (fun c => c != '.') with
  | [] => (l, none)
  | _ :: frac => (l.takeWhile (fun c => c != '.'), some frac)

/-- A decimal real without its sign: its digits as a number, and how many of them stand after the point. -/
def decimalReal (l : List Char) : Option (Nat × Nat) :=
  match splitPoint l with
  | (whole, none) => (digitsValue whole).map fun n => (n, 0)
  | (whole, some frac) =>
    if isDigits whole && isDigits frac then (digitsValue (whole ++ frac)).map fun n => (n, frac.length) else none

/-- Digits with a point that has none on one side (`.5`, `5.`): whether this is a decimal real R261 does not say. -/
def pointAtEnd (l : List Char) : Bool :=
  match splitPoint l with
  | (_, none) => false
  | (whole, some frac) => (whole.isEmpty && isDigits frac) || (isDigits whole && frac.isEmpty)

/-- An exponent form: a decimal real, `e` or `E`, an exponent. -/
def exponentForm (l : List Char) : Bool :=
  let isE (c : Char) : Bool := c == 'e' || c == 'E'
  match l.dropWhile (fun c => !isE c) with
  | [] => false
  | _ :: x =>
    let mantissa := l.takeWhile fun c => !isE c
    ((decimalReal mantissa).isSome || pointAtEnd mantissa) && isExponent x

def isHexDigit (c : Char) : Bool :=
  c.isDigit || ('a' ≤ c.toLower && c.toLower ≤ 'f')

/-- A hexadecimal spelling: `0x` or `0X`, hexadecimal digits with at most one point, and if need be `p` or `P` and an exponent. -/
def hexForm : List Char → Bool
  | '0' :: x :: rest =>
    let isP (c : Char) : Bool := c == 'p' || c == 'P'
    let mantissa := rest.takeWhile fun c => !isP c
    let digits := (splitPoint mantissa).1 ++ (splitPoint mantissa).2.getD []
    (x == 'x' || x == 'X') && !digits.isEmpty && digits.all isHexDigit
      && (match rest.dropWhile (fun c => !isP c) with
        | [] => true
        | _ :: e => isExponent e)
  | _ => false

/-- A spelling of infinity or NaN, in any case. -/
def infOrNan (l : List Char) : Bool :=
  let low := l.map Char.toLower
  low == ['i', 'n', 'f'] || low == ['i', 'n', 'f', 'i', 'n', 'i', 't', 'y'] || low == ['n', 'a', 'n']

/-- The spellings after the sign that R261 leaves to the environment. Which lines have them is log entry 17. -/
def openSpelling (l : List Char) : Bool := exponentForm l || hexForm l || infOrNan l

/-- Kind `I` after the sign: a decimal integer in -2^31 .. 2^31-1 (R261). -/
def signedBody (neg : Bool) (l : List Char) : Option Token :=
  if openSpelling l then none else
  match digitsValue l with
  | some n =>
    let v : Int := if neg then -(n : Int) else n
    if -2147483648 ≤ v ∧ v ≤ 2147483647 then some (.ok (BitVec.ofInt 32 v)) else some .bad
  | none => some .bad

/-- Kind `U` after the sign: a decimal integer in 0 .. 2^32-1 (R261); with a minus sign before the number the line is `bad` (R265). A
minus sign inside an exponent (`1e-5`, `0x1p-3`) is another matter: R265 calls a line with a minus sign `bad`, R261 leaves exponent
forms to the environment. DESIGN CHOICE: such a line is left to the environment. Log entry 17. -/
def unsignedBody (neg : Bool) (l : List Char) : Option Token :=
  if neg then some .bad else
  if openSpelling l then none else
  match digitsValue l with
  | some n => if n ≤ 4294967295 then some (.ok (BitVec.ofNat 32 n)) else some .bad
  | none => some .bad

/-- The Word of the decimal real `n / 10^k`, negative if `neg`: RN24 of it, an infinity from `2^128 - 2^103` on (R170, R261). The
real 0 with a minus sign has both zeros nearest to it; which of them is a free value. Log entry 17. -/
def realWord (line : List Char) (neg : Bool) (n k : Nat) : Word :=
  if neg && n == 0 then wordOfDatum (.fin (Config.minusZeroSign line) 0) else wordOfDatum (rn24 neg (n * 2 ^ 1074) (10 ^ k))

/-- Kind `F` after the sign: a decimal real (R261). `line` is the whole line. -/
def floatBody (line : List Char) (neg : Bool) (l : List Char) : Option Token :=
  if openSpelling l || pointAtEnd l then none else
  match decimalReal l with
  | some (n, k) => some (.ok (realWord line neg n k))
  | none => some .bad

/-- The token a line yields for a request of the given kind (R261); `none` where that is left to the environment: an open spelling,
or a line that is a number but for a blank at an end or a leading `+`. A line that is no number with them is none without them, and
so `bad` whatever the environment does with them. -/
def lineToken (k : Kind) (l : List Char) : Option Token :=
  let b := stripBlanks l
  let neg := (splitSign b).2.1
  let body := (splitSign b).2.2
  let t : Option Token :=
    match k with
    | .signed => signedBody neg body
    | .unsigned => unsignedBody neg body
    | .float => floatBody l neg body
  if t = some .bad then some .bad
  else if (splitSign b).1 || b != l then none
  else t

/-- End of input is presented as `bad` (R260, U7). -/
def endOfInput : Token := .bad

end Sys2Proof.Machine
end

