-- ==== Sys2Proof/Machine/Loader.lean ====
section
/-! DEFINITION. The text loader's line forms, driving the host interface (R100 to R105). The loader is outside the block
(R4); it is modelled over tokens already read as numbers, since the syntax of numbers is not given (R102). Log entry 16. -/

namespace Sys2Proof.Machine

/-- A line by its first token (R100 to R104). -/
inductive LoaderLine where
  | a (addr : Nat)
  | i (n : Int)
  | u (n : Nat)
  /-- the float already as its Word -/
  | f (w : Word)
  | e (addr : Nat)
  | k (op : Nat) (operands : List Nat)
  /-- an unrecognised leading token -/
  | other
deriving DecidableEq, Repr

/-- The loader's own state: the current load address, the run address once an `e` line gave it, the machine. -/
structure Loader where
  loadAddr : Nat
  runAddr : Option Half
  machine : State
deriving DecidableEq, Repr

/-- Write one Word at the current load address, then advance it by 2 (R102). -/
def Loader.emit (L : Loader) (w : Word) : Option Loader :=
  if L.loadAddr < 65536 then
    match hostWriteWord L.machine (BitVec.ofNat 16 L.loadAddr) w with
    | .next s => some { L with loadAddr := L.loadAddr + 2, machine := s }
    | .fault _ => none
    | .refused _ => none
  else none

/-- The Word of a `k` line (R104); `none`, the model's choice, for more than three tokens or a number too large for its field, which
no rule covers. Log entry 16. -/
def instrLineWord (op : Nat) (operands : List Nat) : Option Word :=
  let B (n : Nat) : Slot := BitVec.ofNat 8 n
  let H (n : Nat) : Half := BitVec.ofNat 16 n
  if 255 < op then none else
  match operands with
  | [] => some (formatA (B op) 0 0 0)
  | [t] =>
    if op = 54 then (if t < 65536 then some (formatB (B op) 0 (H t)) else none)
    else (if t < 256 then some (formatA (B op) 0 0 (B t)) else none)
  | [r, v] => if r < 256 ∧ v < 65536 then some (formatB (B op) (B r) (H v)) else none
  | [p, q, r] => if p < 256 ∧ q < 256 ∧ r < 256 then some (formatA (B op) (B p) (B q) (B r)) else none
  | _ => none

/-- One line; `none`, which fails the whole load, where the spec gives no rule or the host interface refuses. Whether an `e` line
may appear more than once the spec leaves undecided (91_not_in_source.md section 4): that a second one fails the load is the model's
choice, as is that an `e` line whose run address is no 16-bit number does, and a number out of its range. Log entry 16. -/
def loadLine (L : Loader) : LoaderLine → Option Loader
  | .a addr => some { L with loadAddr := addr }
  | .i n => if -2147483648 ≤ n ∧ n ≤ 2147483647 then L.emit (BitVec.ofInt 32 n) else none
  | .u n => if n ≤ 4294967295 then L.emit (BitVec.ofNat 32 n) else none
  | .f w => L.emit w
  | .e addr =>
    if L.runAddr.isNone ∧ 2 ≤ addr ∧ addr < 65538 then
      ({ L with runAddr := some (BitVec.ofNat 16 (addr - 2)) } : Loader).emit 0
    else none
  | .k op operands =>
    match instrLineWord op operands with
    | some w => L.emit w
    | none => none
  | .other => some L

/-- All lines in order. -/
def loadLines : Loader → List LoaderLine → Option Loader
  | L, [] => some L
  | L, l :: ls =>
    match loadLine L l with
    | some L' => loadLines L' ls
    | none => none

/-- Load a program text into a machine and start it at its run address (R100). The load address begins at 0 (90_conflicts.md
C7). `none` where a line has no rule, or, the model's choice, no `e` line gave a run address. Log entry 16. -/
def bootProgram (s : State) (ls : List LoaderLine) : Option State :=
  match loadLines { loadAddr := 0, runAddr := none, machine := s } ls with
  | some L =>
    (match L.runAddr with
      | some entry =>
        (match hostStart L.machine entry with
          | .next t => some t
          | .fault _ => none
          | .refused _ => none)
      | none => none)
  | none => none

end Sys2Proof.Machine
end

