-- ==== Sys2Proof/Tests/Slice0.lean ====
section
/-! SUPPORT. Tests of one step or one operation each; expected values from spec/95_test_vectors.md and spec/96_alu_vectors.md, or
worked out by hand from the rule named. Then, for each obligation with hypotheses, what meets them. -/

namespace Sys2Proof.Tests

set_option Elab.async false

open Sys2Proof.Machine Sys2Proof.Claims

/-! States and what a test looks at. -/

/-- Reset, then `start(0)`. -/
def started : State := State.reset.setRun .running

/-- A Word put at a cell address. -/
def withWord (s : State) (a : Half) (w : Word) : State := s.setMem (s.mem.setWord a w)

/-- The setup of 96_alu_vectors.md section 2.3: `x[0]=100, x[1]=102, x[2]=104`, operands at 100 and 102, `w` at 0. -/
def alu (w wa wb : Word) (f : Half) : State :=
  ((((withWord (withWord (withWord started 100 wa) 102 wb) 0 w).setReg 0 100).setReg 1 102).setReg 2 104).setFlags f

/-- The Word at an address, the flags and `pc` of a next state. -/
def look (r : Result) (a : Half) : Option (Word × Half × Half) :=
  match r with
  | .next t => some (t.word a, t.flags, t.pc)
  | .fault _ => none
  | .refused _ => none

/-- The run state and `pc` of a next state. -/
def lookRun (r : Result) : Option (Run × Half) :=
  match r with
  | .next t => some (t.run, t.pc)
  | .fault _ => none
  | .refused _ => none

/-- A register, `SP` and `pc` of a next state. -/
def lookReg (r : Result) (i : Reg) : Option (Half × BitVec 4 × Half) :=
  match r with
  | .next t => some (t.reg i, t.sp, t.pc)
  | .fault _ => none
  | .refused _ => none

/-- `IN`, `OUT` and `pc` of a next state. -/
def lookConsole (r : Result) : Option (List Token × List Event × Half) :=
  match r with
  | .next t => some (t.input, t.output, t.pc)
  | .fault _ => none
  | .refused _ => none

/-! Well-formedness: one ill-formed term for the one check there is. -/

theorem test_illegal_mode_is_no_mode : (Target.illegal 3).wellFormed = false := by decide
theorem test_jump_with_mode_three_is_ill_formed : (Instr.jmp (.illegal 3)).wellFormed = false := by decide
theorem test_conditional_jump_with_mode_zero_is_ill_formed : (Instr.fjle (.illegal 0)).wellFormed = false := by decide
theorem test_mode_four_is_an_illegal_mode : (Instr.jmp (.illegal 4)).wellFormed = true := by decide

/-! Decoding: Words written out from R80 to R89 (95_test_vectors.md sections 2.2 to 2.12). -/

theorem test_decode_halt : decode 0xABCDEF00 = .ok .halt := by decide
theorem test_decode_jmp : decode 0x09070201 = .ok (.jmp (.sum 7 9)) := by decide
theorem test_decode_ije : decode 0x00000902 = .ok (.ije (.illegal 9)) := by decide
theorem test_decode_ijg : decode 0x00780003 = .ok (.ijg (.abs 120)) := by decide
theorem test_decode_ijl : decode 0xFFFA0304 = .ok (.ijl (.rel 0xFFFA)) := by decide
theorem test_decode_ijne : decode 0x7FFF0105 = .ok (.ijne (.ind 32767)) := by decide
theorem test_decode_ijge : decode 0x09070206 = .ok (.ijge (.sum 7 9)) := by decide
theorem test_decode_ijle : decode 0x00780007 = .ok (.ijle (.abs 120)) := by decide
theorem test_decode_uje : decode 0x01F40108 = .ok (.uje (.ind 500)) := by decide
theorem test_decode_ujg : decode 0x00780009 = .ok (.ujg (.abs 120)) := by decide
theorem test_decode_ujl : decode 0x0907020A = .ok (.ujl (.sum 7 9)) := by decide
theorem test_decode_ujne : decode 0x0014030B = .ok (.ujne (.rel 20)) := by decide
theorem test_decode_ujge : decode 0xF0FF020C = .ok (.ujge (.sum 255 240)) := by decide
theorem test_decode_ujle : decode 0x01F4010D = .ok (.ujle (.ind 500)) := by decide
theorem test_decode_fje : decode 0x0078000E = .ok (.fje (.abs 120)) := by decide
theorem test_decode_fjg : decode 0x0907020F = .ok (.fjg (.sum 7 9)) := by decide
theorem test_decode_fjl : decode 0xFFFC0310 = .ok (.fjl (.rel 0xFFFC)) := by decide
theorem test_decode_fjne : decode 0x01F40111 = .ok (.fjne (.ind 500)) := by decide
theorem test_decode_fjge : decode 0x0000FF12 = .ok (.fjge (.illegal 255)) := by decide
theorem test_decode_fjle : decode 0x12340013 = .ok (.fjle (.abs 0x1234)) := by decide
theorem test_decode_lda : decode 0x12340514 = .ok (.lda 5 0x1234) := by decide
theorem test_decode_mov : decode 0x00000115 = .ok (.mov 1 0) := by decide
theorem test_decode_ldp : decode 0x00000716 = .ok (.ldp 7 0) := by decide
theorem test_decode_iadd : decode 0x01000217 = .ok (.iadd 2 0 1) := by decide
theorem test_decode_isub : decode 0x01000218 = .ok (.isub 2 0 1) := by decide
theorem test_decode_fadd : decode 0x01000219 = .ok (.fadd 2 0 1) := by decide
theorem test_decode_fsub : decode 0x0100021A = .ok (.fsub 2 0 1) := by decide
theorem test_decode_imul : decode 0x0100021B = .ok (.imul 2 0 1) := by decide
theorem test_decode_umul : decode 0x0100021C = .ok (.umul 2 0 1) := by decide
theorem test_decode_fmul : decode 0x0100021D = .ok (.fmul 2 0 1) := by decide
theorem test_decode_idiv : decode 0x0100021E = .ok (.idiv 2 0 1) := by decide
theorem test_decode_udiv : decode 0x0100021F = .ok (.udiv 2 0 1) := by decide
theorem test_decode_fdiv : decode 0x03010120 = .ok (.fdiv 1 1 3) := by decide
theorem test_decode_imod : decode 0x01000221 = .ok (.imod 2 0 1) := by decide
theorem test_decode_umod : decode 0x01000222 = .ok (.umod 2 0 1) := by decide
theorem test_decode_inc : decode 0x05030223 = .ok (.inc 5) := by decide
theorem test_decode_dec : decode 0x00000024 = .ok (.dec 0) := by decide
theorem test_decode_ineg : decode 0x09000025 = .ok (.ineg 9) := by decide
theorem test_decode_fneg : decode 0x02FFFF26 = .ok (.fneg 2) := by decide
theorem test_decode_icmp : decode 0x02000027 = .ok (.icmp 0 2) := by decide
theorem test_decode_ucmp : decode 0x0201FF28 = .ok (.ucmp 1 2) := by decide
theorem test_decode_fcmp : decode 0x01000029 = .ok (.fcmp 0 1) := by decide
theorem test_decode_and : decode 0x0100022A = .ok (.and 2 0 1) := by decide
theorem test_decode_or : decode 0x0100022B = .ok (.or 2 0 1) := by decide
theorem test_decode_xor : decode 0x0100022C = .ok (.xor 2 0 1) := by decide
theorem test_decode_not : decode 0xFF00002D = .ok (.not 255) := by decide
theorem test_decode_getf : decode 0x000C022E = .ok (.getf 2 12) := by decide
theorem test_decode_setf : decode 0x000A032F = .ok (.setf 3 10) := by decide
theorem test_decode_iread : decode 0x00000030 = .ok (.iread 0) := by decide
theorem test_decode_uread : decode 0x07000031 = .ok (.uread 7) := by decide
theorem test_decode_fread : decode 0x03050732 = .ok (.fread 3) := by decide
theorem test_decode_iprint : decode 0x02000033 = .ok (.iprint 2) := by decide
theorem test_decode_uprint : decode 0x08000034 = .ok (.uprint 8) := by decide
theorem test_decode_fprint : decode 0x01000035 = .ok (.fprint 1) := by decide
theorem test_decode_call : decode 0x01000936 = .ok (.call 256) := by decide
theorem test_decode_ret : decode 0xFFFFFF37 = .ok .ret := by decide
theorem test_decode_reserved_56 : decode 0x12345638 = .error (.reservedOpcode 56) := by decide
theorem test_decode_reserved_255 : decode 0xFFFFFFFF = .error (.reservedOpcode 255) := by decide
theorem test_encode_iadd : encode (.iadd 2 0 1) = 0x01000217 := by decide
theorem test_encode_jump_relative : encode (.ijl (.rel 0xFFFA)) = 0xFFFA0304 := by decide
theorem test_table_word : decodeTableWord 32 0xF0FF020C = some (.ujge (.sum 255 240)) := by decide

/-! The step (95_test_vectors.md section 2.1). -/

theorem test_halt : lookRun (step (withWord started 0 0xABCDEF00)) = some (.halted, 0) := by decide +kernel
theorem test_reserved_opcode :
    lookRun (step (withWord started 0 0x12345638)) = some (.faulted .illegalOpcode 56, 0) := by decide +kernel
theorem test_fetch_at_32766 : lookRun (step (started.setPc 32766)) = some (.halted, 32766) := by decide +kernel
theorem test_fetch_at_32767 :
    lookRun (step (started.setPc 32767)) = some (.faulted .fetchBounds 32767, 32767) := by decide +kernel
theorem test_no_step_from_reset : step State.reset = .fault .coreHalted := rfl
theorem test_with_fetch_word : look (step (State.reset.withFetchWord 32 0x12340514)) 0 = some (0x12340514, 0, 2) := by decide +kernel

/-! Data movement (section 2.2). -/

theorem test_lda : lookReg (step (withWord started 0 0x12340514)) 5 = some (0x1234, 0, 2) := by decide +kernel
theorem test_mov_overlap :
    look (step (((((withWord (withWord started 100 0x11112222) 102 0x3333)).setReg 0 100).setReg 1 101)
      |> fun s => withWord s 0 0x00000115)) 101 = some (0x11112222, 0, 2) := by decide +kernel
theorem test_mov_destination_out_of_range :
    lookRun (step ((alu 0x00000115 1 2 0).setReg 1 32767)) = some (.faulted .memBounds 32767, 0) := by decide +kernel
theorem test_ldp_through_itself : lookReg (step (alu 0x00000016 0x00050140 0 0)) 0 = some (320, 0, 2) := by decide +kernel

/-! Integer arithmetic (96_alu_vectors.md section 2.3). -/

theorem test_iadd_overflow :
    look (step (alu 0x01000217 0x7FFFFFFF 0x00000001 0)) 104 = some (0x80000000, 0x0300, 2) := by decide +kernel
theorem test_iadd_clears_v_and_c :
    look (step (alu 0x01000217 1 2 0x1600)) 104 = some (3, 0x1002, 2) := by decide +kernel
theorem test_isub_borrow :
    look (step (alu 0x01000218 5 7 0)) 104 = some (0xFFFFFFFE, 0x0500, 2) := by decide +kernel
theorem test_isub_overflow :
    look (step (alu 0x01000218 0x80000000 1 0)) 104 = some (0x7FFFFFFF, 0x0200, 2) := by decide +kernel
theorem test_imul_both_overflow :
    look (step (alu 0x0100021B 0x10000 0x10000 0)) 104 = some (0, 0x0603, 2) := by decide +kernel
theorem test_imul_signed_overflow_only :
    look (step (alu 0x0100021B 0xB505 0xB505 0)) 104 = some (0x80001219, 0x0302, 2) := by decide +kernel
theorem test_umul_keeps_v :
    look (step (alu 0x0100021C 0xFFFFFFFF 2 0x0200)) 104 = some (0xFFFFFFFE, 0x0700, 2) := by decide +kernel
theorem test_umul_fits :
    look (step (alu 0x0100021C 0x8000 0x10000 0)) 104 = some (0x80000000, 0x0100, 2) := by decide +kernel
theorem test_idiv_toward_zero :
    look (step (alu 0x0100021E 0xFFFFFFF9 2 0)) 104 = some (0xFFFFFFFD, 0x0100, 2) := by decide +kernel
theorem test_idiv_least_by_minus_one :
    look (step (alu 0x0100021E 0x80000000 0xFFFFFFFF 0)) 104 = some (0x80000000, 0x0100, 2) := by decide +kernel
theorem test_udiv_unsigned :
    look (step (alu 0x0100021F 0xFFFFFFFE 2 0)) 104 = some (0x7FFFFFFF, 0, 2) := by decide +kernel
theorem test_udiv_by_zero :
    look (step (alu 0x0100021F 7 0 0)) 104 = some (0, 0x1003, 2) := by decide +kernel
theorem test_imod_sign_of_dividend :
    look (step (alu 0x01000221 0xFFFFFFF9 2 0)) 104 = some (0xFFFFFFFF, 0x0102, 2) := by decide +kernel
theorem test_imod_positive :
    look (step (alu 0x01000221 7 0xFFFFFFFE 0x1000)) 104 = some (1, 0, 2) := by decide +kernel
theorem test_umod_unsigned :
    look (step (alu 0x01000222 0xFFFFFFFF 10 0)) 104 = some (5, 2, 2) := by decide +kernel
theorem test_umod_by_zero :
    look (step (alu 0x01000222 7 0 0)) 104 = some (0, 0x1003, 2) := by decide +kernel
theorem test_inc_overflow :
    look (step (alu 0x23 0x7FFFFFFF 0 0)) 100 = some (0x80000000, 0x0300, 2) := by decide +kernel
theorem test_inc_carry :
    look (step (alu 0x23 0xFFFFFFFF 0 0)) 100 = some (0, 0x0403, 2) := by decide +kernel
theorem test_dec_overflow :
    look (step (alu 0x24 0x80000000 0 0)) 100 = some (0x7FFFFFFF, 0x0200, 2) := by decide +kernel
theorem test_dec_borrow :
    look (step (alu 0x24 0 0 0)) 100 = some (0xFFFFFFFF, 0x0502, 2) := by decide +kernel
theorem test_ineg_least :
    look (step (alu 0x25 0x80000000 0 0)) 100 = some (0x80000000, 0x0100, 2) := by decide +kernel
theorem test_ineg_keeps_v_and_c :
    look (step (alu 0x25 5 0 0x0600)) 100 = some (0xFFFFFFFB, 0x0700, 2) := by decide +kernel
theorem test_iadd_overlap :
    look (step ((withWord (withWord (alu 0x01000017 0 0 0) 100 0x00020001) 102 3).setReg 1 101)) 100 =
      some (0x00050003, 0x0002, 2) := by decide +kernel
theorem test_destination_fault_leaves_flags :
    look (step ((alu 0x01000217 1 2 0x0055).setReg 2 60000)) 100 = some (1, 0x0055, 0) := by decide +kernel

/-! Float arithmetic (section 2.4). -/

theorem test_fadd_tie_to_even :
    look (step (alu 0x01000219 0x3F800000 0x33800000 0)) 104 = some (0x3F800000, 0x0800, 2) := by decide +kernel
theorem test_fadd_minus_zeros :
    look (step (alu 0x01000219 0x80000000 0x80000000 0)) 104 = some (0x80000000, 0x0001, 2) := by decide +kernel
theorem test_fsub_negative :
    look (step (alu 0x0100021A 0x3F000000 0x40000000 0)) 104 = some (0xBFC00000, 0x0100, 2) := by decide +kernel
theorem test_fsub_overflow :
    look (step (alu 0x0100021A 0xFF7FFFFF 0x7F7FFFFF 0)) 104 = some (0xFF800000, 0x0900, 2) := by decide +kernel
theorem test_fmul_subnormal_rounded :
    look (step (alu 0x0100021D 0x00800001 0x3F000000 0)) 104 = some (0x00400000, 0x0800, 2) := by decide +kernel
theorem test_fmul_minus_zero :
    look (step (alu 0x0100021D 0xC0000000 0 0)) 104 = some (0x80000000, 0x0001, 2) := by decide +kernel
theorem test_fdiv_third :
    look (step (alu 0x01000220 0x3F800000 0x40400000 0x1800)) 104 = some (0x3EAAAAAB, 0x0800, 2) := by decide +kernel
theorem test_fdiv_by_minus_zero :
    look (step (alu 0x01000220 0x3F800000 0x80000000 0)) 104 = some (0xFF800000, 0x1100, 2) := by decide +kernel
theorem test_fneg_nan :
    look (step (alu 0x26 0x7FC00000 0 0)) 100 = some (0xFFC00000, 0, 2) := by decide +kernel
theorem test_fneg_zero :
    look (step (alu 0x26 0 0 0)) 100 = some (0x80000000, 0x0001, 2) := by decide +kernel

/-! Compares (section 2.5). -/

theorem test_icmp_signed :
    look (step (alu 0x01000027 0x80000000 0 0x1FFF)) 100 = some (0x80000000, 0x1FF3, 2) := by decide +kernel
theorem test_icmp_greater :
    look (step (alu 0x01000027 7 5 0x1FFF)) 100 = some (7, 0x1FFB, 2) := by decide +kernel
theorem test_ucmp_unsigned :
    look (step (alu 0x01000028 0x80000000 0 0x1FFF)) 100 = some (0x80000000, 0x1FEF, 2) := by decide +kernel
theorem test_ucmp_less :
    look (step (alu 0x01000028 5 7 0x1FFF)) 100 = some (5, 0x1FCF, 2) := by decide +kernel
theorem test_fcmp_zeros_equal :
    look (step (alu 0x01000029 0x80000000 0 0x1FFF)) 100 = some (0x80000000, 0x1F7F, 2) := by decide +kernel
theorem test_fcmp_nan :
    look (step (alu 0x01000029 0x7FC00000 0x7FC00000 0x1FFF)) 100 = some (0x7FC00000, 0x1F3F, 2) := by decide +kernel

/-! Jumps (95_test_vectors.md section 2.6): the jump is at 100, the Word at 500 is 0x00050078, `x[7]=100`, `x[9]=20`. -/

def jumpAt (w : Word) (f : Half) : State :=
  ((((withWord (withWord started 100 w) 500 0x00050078).setReg 7 100).setReg 9 20).setFlags f).setPc 100

theorem test_jmp_indirect : lookRun (step (jumpAt 0x01F40101 0)) = some (.running, 120) := by decide +kernel
theorem test_jmp_illegal_mode : lookRun (step (jumpAt 0x00000401 0)) = some (.faulted .illegalOperand 4, 100) := by decide +kernel
theorem test_jump_sum : lookRun (step (jumpAt 0x09070201 0)) = some (.running, 120) := by decide +kernel
theorem test_jump_back : lookRun (step (jumpAt 0xFFFC0301 0)) = some (.running, 96) := by decide +kernel

/-- Whether the jump with opcode `op`, `abs 120`, is taken under flags `f`. -/
def taken (op : Word) (f : Half) : Bool := lookRun (step (jumpAt (op + 0x00780000) f)) == some (.running, 120)

/-- The path not taken goes on at 102. -/
def notTaken (op : Word) (f : Half) : Bool := lookRun (step (jumpAt (op + 0x00780000) f)) == some (.running, 102)

theorem test_ije : (notTaken 2 0x0000 && notTaken 2 0x0008 && taken 2 0x0004 && taken 2 0x000C) = true := by decide +kernel
theorem test_ijg : (notTaken 3 0x0000 && taken 3 0x0008 && notTaken 3 0x0004 && taken 3 0x000C) = true := by decide +kernel
theorem test_ijl : (taken 4 0x0000 && notTaken 4 0x0008 && notTaken 4 0x0004 && notTaken 4 0x000C) = true := by decide +kernel
theorem test_ijne : (taken 5 0x0000 && taken 5 0x0008 && notTaken 5 0x0004 && notTaken 5 0x000C) = true := by decide +kernel
theorem test_ijge : (notTaken 6 0x0000 && taken 6 0x0008 && taken 6 0x0004 && taken 6 0x000C) = true := by decide +kernel
theorem test_ijle : (taken 7 0x0000 && notTaken 7 0x0008 && taken 7 0x0004 && notTaken 7 0x000C) = true := by decide +kernel
theorem test_uje : (notTaken 8 0x0000 && notTaken 8 0x0020 && taken 8 0x0010 && taken 8 0x0030) = true := by decide +kernel
theorem test_ujg : (notTaken 9 0x0000 && taken 9 0x0020 && notTaken 9 0x0010 && taken 9 0x0030) = true := by decide +kernel
theorem test_ujl : (taken 10 0x0000 && notTaken 10 0x0020 && notTaken 10 0x0010 && notTaken 10 0x0030) = true := by decide +kernel
theorem test_ujne : (taken 11 0x0000 && taken 11 0x0020 && notTaken 11 0x0010 && notTaken 11 0x0030) = true := by decide +kernel
theorem test_ujge : (notTaken 12 0x0000 && taken 12 0x0020 && taken 12 0x0010 && taken 12 0x0030) = true := by decide +kernel
theorem test_ujle : (taken 13 0x0000 && notTaken 13 0x0020 && taken 13 0x0010 && notTaken 13 0x0030) = true := by decide +kernel
theorem test_fje : (notTaken 14 0x0000 && notTaken 14 0x0080 && taken 14 0x0040 && taken 14 0x00C0) = true := by decide +kernel
theorem test_fjg : (notTaken 15 0x0000 && taken 15 0x0080 && notTaken 15 0x0040 && taken 15 0x00C0) = true := by decide +kernel
theorem test_fjl : (taken 16 0x0000 && notTaken 16 0x0080 && notTaken 16 0x0040 && notTaken 16 0x00C0) = true := by decide +kernel
theorem test_fjne : (taken 17 0x0000 && taken 17 0x0080 && notTaken 17 0x0040 && notTaken 17 0x00C0) = true := by decide +kernel
theorem test_fjge : (notTaken 18 0x0000 && taken 18 0x0080 && taken 18 0x0040 && taken 18 0x00C0) = true := by decide +kernel
theorem test_fjle : (taken 19 0x0000 && notTaken 19 0x0080 && taken 19 0x0040 && notTaken 19 0x00C0) = true := by decide +kernel
theorem test_ije_reads_no_other_flag : lookRun (step (jumpAt 0x00780002 0x1FFB)) = some (.running, 102) := by decide +kernel
theorem test_ije_not_taken_examines_nothing : lookRun (step (jumpAt 0x00000902 0)) = some (.running, 102) := by decide +kernel
theorem test_fjg_reads_no_signed_flag : lookRun (step (jumpAt 0x0907020F 0x0008)) = some (.running, 102) := by decide +kernel

/-! Bitwise logic (section 2.7). -/

theorem test_and_keeps_the_rest :
    look (step (alu 0x0100022A 3 1 0x1E00)) 104 = some (1, 0x1E00, 2) := by decide +kernel
theorem test_and_disjoint :
    look (step (alu 0x0100022A 0xF0F0F0F0 0x0F0F0F0F 0)) 104 = some (0, 3, 2) := by decide +kernel
theorem test_or_all :
    look (step (alu 0x0100022B 0xF0F0F0F0 0x0F0F0F0F 0)) 104 = some (0xFFFFFFFF, 0x0102, 2) := by decide +kernel
theorem test_or_zero :
    look (step (alu 0x0100022B 0 0 0)) 104 = some (0, 3, 2) := by decide +kernel
theorem test_xor_all :
    look (step (alu 0x0100022C 0xAAAAAAAA 0x55555555 0)) 104 = some (0xFFFFFFFF, 0x0102, 2) := by decide +kernel
theorem test_xor_one :
    look (step (alu 0x0100022C 1 0 0)) 104 = some (1, 0, 2) := by decide +kernel
theorem test_not_mixed :
    look (step (alu 0x2D 0x12345678 0 0)) 100 = some (0xEDCBA987, 0x0100, 2) := by decide +kernel
theorem test_not_ones :
    look (step (alu 0x2D 0xFFFFFFFF 0 0)) 100 = some (0, 3, 2) := by decide +kernel

/-! Flag transfer (section 2.8). -/

theorem test_getf_fifteen :
    look (step ((alu 0x000F022E 0 0 0x8000))) 104 = some (1, 0x8000, 2) := by decide +kernel
theorem test_getf_sixteen :
    lookRun (step ((alu 0x0010022E 0 0 0x0400).setReg 2 40000)) = some (.faulted .illegalOperand 16, 0) := by decide +kernel
theorem test_setf_clears : look (step (alu 0x000A012F 0 0 0xFFFF)) 104 = some (0, 0xFBFF, 2) := by decide +kernel
theorem test_setf_any_bit : look (step (alu 0x000F012F 0 0x80000000 0)) 104 = some (0, 0x8000, 2) := by decide +kernel

/-! Call and return (section 2.9). -/

def atTen (w : Word) : State := (withWord started 10 w).setPc 10

theorem test_call_wraps_the_ring : lookReg (step ((atTen 0x02580036).setSp 15)) 255 = some (12, 0, 600) := by decide +kernel
theorem test_call_pushes_the_next_address : lookReg (step (atTen 0x01000936)) 240 = some (12, 1, 256) := by decide +kernel
theorem test_ret_on_empty_ring : lookReg (step ((atTen 0x00000037).setReg 255 77)) 255 = some (77, 15, 77) := by decide +kernel
theorem test_ret_keeps_the_slot :
    lookReg (step (((atTen 0x00000037).setReg 240 12).setSp 1)) 240 = some (12, 0, 12) := by decide +kernel

/-! Console (section 2.10). -/

theorem test_iread_stores :
    look (step ((alu 0x00000030 5 0 0x1FFF).setInput [.ok 0xFFFFFFFB, .bad])) 100 = some (0xFFFFFFFB, 0x1FFF, 2) := by decide +kernel
theorem test_iread_consumes_one :
    lookConsole (step ((alu 0x00000030 5 0 0).setInput [.ok 7, .bad])) = some ([.bad], [], 2) := by decide +kernel
theorem test_uread_bad_token_stays :
    (lookRun (step ((alu 0x00000031 5 0 0).setInput [.bad])), lookConsole (step ((alu 0x00000031 5 0 0).setInput [.bad]))) =
      (some (.faulted .inputError 0, 0), some ([.bad], [], 0)) := by decide +kernel
theorem test_uread_blocks : step (alu 0x00000031 5 0 0) = .fault .coreBlocked := rfl
theorem test_fread_checks_destination_first :
    lookRun (step (((alu 0x00000032 5 0 0).setReg 0 32767).setInput [.bad])) = some (.faulted .memBounds 32767, 0) := by decide +kernel
theorem test_fread_stores :
    look (step ((alu 0x00000032 0 0 0).setInput [.ok 0x3FC00000])) 100 = some (0x3FC00000, 0, 2) := by decide +kernel
theorem test_iprint :
    lookConsole (step ((alu 0x00000033 12 0 0).setOutput [⟨.unsigned, 1⟩])) =
      some ([], [⟨.unsigned, 1⟩, ⟨.signed, 12⟩], 2) := by decide +kernel
theorem test_uprint : lookConsole (step (alu 0x01000034 0 0xFFFFFFFF 0)) = some ([], [⟨.unsigned, 0xFFFFFFFF⟩], 2) := by decide +kernel
theorem test_fprint : lookConsole (step (alu 0x01000035 0 0x7FC00000 0)) = some ([], [⟨.float, 0x7FC00000⟩], 2) := by decide +kernel

/-! The host (R320 to R322). -/

theorem test_host_write_reads_back :
    look (hostWriteWord State.reset 32766 0x89ABCDEF) 32766 = some (0x89ABCDEF, 0, 0) := by decide +kernel
theorem test_host_write_out_of_range : hostWriteWord State.reset 32767 1 = .refused .hostAddress := rfl
theorem test_host_start : lookRun (hostStart State.reset 16) = some (.running, 16) := by decide +kernel

/-! Text at the console (R261, R264, R268) and the loader's lines (R105). -/

theorem test_render_signed : renderEvent ⟨.signed, 0xFFFFFFFD⟩ = "-3\n" := by decide +kernel
theorem test_signed_line : lineToken .signed "-3".toList = some (.ok 0xFFFFFFFD) := by decide +kernel
theorem test_signed_line_out_of_range : lineToken .signed "2147483648".toList = some .bad := by decide +kernel
theorem test_lines_that_are_no_number :
    [lineToken .signed "hello".toList, lineToken .signed "".toList, lineToken .unsigned "-1".toList, lineToken .float ".".toList,
      lineToken .float " 1.2.3".toList, lineToken .signed "1.5".toList] = List.replicate 6 (some .bad) := by decide +kernel
theorem test_lines_left_to_the_environment :
    [lineToken .signed "+5".toList, lineToken .unsigned "5 ".toList, lineToken .signed "0x1F".toList, lineToken .float "-1.5e3".toList,
      lineToken .float "-Inf".toList, lineToken .unsigned "1e-5".toList] = List.replicate 6 none := by decide +kernel
theorem test_float_line_past_the_largest :
    lineToken .float ('4' :: List.replicate 38 '0') = some (.ok 0x7F800000) := by decide +kernel
theorem test_float_line_minus_zero :
    lineToken .float "-0.0".toList = some (.ok (wordOfDatum (.fin (Config.minusZeroSign "-0.0".toList) 0))) := rfl
theorem test_float_line : lineToken .float "1.5".toList = some (.ok 0x3FC00000) := by decide +kernel
theorem test_loader_entry :
    (bootProgram State.reset [.a 16, .k 51 [2], .e 18]).map (fun s => (s.pc, s.run, s.word 16, s.word 18)) =
      some (16, .running, 0x02000033, 0) := by decide +kernel

/-! What meets the hypotheses of the obligations, at the ends of their ranges. -/

/-- Operands 5 and 7 at 100 and 102, registers 3 and 4 at the last legal and the first illegal Word address. -/
def ready : State := ((alu 0x01000217 5 7 0).setReg 3 32766).setReg 4 32767

theorem witness_MemReadValueAndBounds_MemWriteReadsBack :
    ready.mem.wf = true ∧ 32766 < (32767 : Half).toNat ∧ 32767 < (32768 : Half).toNat ∧ (32766 : Half).toNat ≤ 32766 ∧
      (32767 : Half).toNat ≤ 32767 := by decide +kernel

theorem witness_ParityCountsOneBits : (ready.setFlags (intFlags ready.flags 5)).flags = intFlags ready.flags 5 := rfl

theorem witness_DecodeEncodeAgree :
    (Instr.jmp (.illegal 4)).wellFormed = true ∧ (Instr.iadd 255 0 255).wellFormed = true := by decide

theorem witness_DecodeNormalForm : decode 0x05030223 = .ok (.inc 5) ∧ decode 0x12340401 = .ok (.jmp (.illegal 4)) := by decide

/-- Two different Words for each clause. -/
theorem witness_UnusedFieldsIgnored :
    (opField 0x00000037 = opField 0xFFFFFF37 ∧ (opField 0x00000037).toNat = 55) ∧
    (opField 0x05000035 = opField 0x05FFFF35 ∧ (opField 0x05000035).toNat ∈ [35, 36, 37, 38, 45, 48, 49, 50, 51, 52, 53] ∧
      s3 0x05000035 = s3 0x05FFFF35) ∧
    (opField 0x01000029 = opField 0x0100FF29 ∧ (opField 0x01000029).toNat ∈ [39, 40, 41] ∧ s2 0x01000029 = s2 0x0100FF29 ∧
      s3 0x01000029 = s3 0x0100FF29) ∧
    (opField 0x00000115 = opField 0xFF000115 ∧ (opField 0x00000115).toNat ∈ [21, 22] ∧ s1 0x00000115 = s1 0xFF000115 ∧
      s2 0x00000115 = s2 0xFF000115) ∧
    (opField 0x01000036 = opField 0x01000936 ∧ (opField 0x01000036).toNat = 54 ∧ a16 0x01000036 = a16 0x01000936) ∧
    (opField 0x00000413 = opField 0xABCD0413 ∧ 1 ≤ (opField 0x00000413).toNat ∧ (opField 0x00000413).toNat ≤ 19 ∧
      3 < (s1 0x00000413).toNat ∧ s1 0x00000413 = s1 0xABCD0413) := by decide

theorem witness_StepRunsDecodedInstruction :
    ready.run = .running ∧ wordInRange ready.pc ∧ decode (ready.word ready.pc) = .ok (.iadd 2 0 1) := by decide +kernel

theorem witness_FetchWordOrFault :
    (started.setPc 32767).run = .running ∧ 32767 ≤ (started.setPc 32767).pc.toNat ∧ (started.setPc 32766).pc.toNat ≤ 32766 ∧
    decode (BitVec.ofNat 32 (((started.setPc 32766).mem.cell 32766).toNat + 2 ^ 16 * ((started.setPc 32766).mem.cell 32767).toNat)) =
      .ok .halt := by decide +kernel

theorem witness_ReservedOpcodeFaults :
    (withWord started 0 56).run = .running ∧ wordInRange (withWord started 0 56).pc ∧
    56 ≤ ((withWord started 0 56).word (withWord started 0 56).pc).toNat % 256 := by decide +kernel

theorem witness_HaltOnZeroOpcode :
    (0xABCDEF00 : Word).toNat % 256 = 0 ∧ started.run = .running ∧ wordInRange started.pc ∧
    (started.word started.pc).toNat % 256 = 0 := by decide +kernel

theorem witness_StoppedCoreHasNoStep :
    State.reset.run ≠ .running ∧ (ready.setRun (.faulted .memBounds 32767)).run ≠ .running ∧ ready.run = .running ∧
    (alu 0x00000031 5 0 0).run = .running ∧ ([.bad] : List Token) ≠ [] := by decide +kernel

/-- A read without a token waits; an add does not, nor a read whose destination is out of range. -/
theorem witness_StoppedCoreHasNoStep_waits :
    Waits (alu 0x00000031 5 0 0) ∧ ¬ Waits ready ∧ ¬ Waits ((alu 0x00000031 5 0 0).setReg 0 32767) := by
  have dec (s : State) (i : Instr) (h : decode (s.word s.pc) = .ok i) (j : Instr) (hj : decode (s.word s.pc) = .ok j) : j = i :=
    Except.ok.inj (hj.symm.trans h)
  refine ⟨⟨by decide +kernel, rfl, .uread 0, 0, by decide +kernel, .inr (.inl rfl), by decide +kernel⟩, ?_, ?_⟩
  · rintro ⟨_, _, i, r, hd, hi, _⟩
    obtain rfl := dec ready (.iadd 2 0 1) (by decide +kernel) i hd
    rcases hi with h | h | h <;> cases h
  · rintro ⟨_, _, i, r, hd, hi, hr⟩
    obtain rfl := dec ((alu 0x00000031 5 0 0).setReg 0 32767) (.uread 0) (by decide +kernel) i hd
    rcases hi with h | h | h <;> cases h
    exact absurd hr (by decide +kernel)

/-- For every statement through `ThreeRegister` or `FloatThreeRegister`: `IaddResult`, `IsubResult`, `ImulResult`, `UmulResult`,
`IdivResult`, `UdivResult`, `ImodResult`, `UmodResult`, `FaddResult`, `FsubResult`, `FmulResult`, `FdivResult`, `LogicResult`; and
for `MovCopiesWord` and `LdpLoadsPointer`. Registers 3 and 4 hold 32766 and 32767. -/
theorem witness_ThreeRegister :
    ready.mem.wf = true ∧ wordInRange (ready.reg 0) ∧ wordInRange (ready.reg 1) ∧ wordInRange (ready.reg 2) ∧
    wordInRange (ready.reg 3) ∧ ¬ wordInRange (ready.reg 4) := by decide +kernel

/-- For every statement through `OneRegister`: `IncResult`, `DecResult`, `InegResult`, `FnegResult`, `NotResult`. -/
theorem witness_OneRegister :
    ready.mem.wf = true ∧ wordInRange (ready.reg 3) ∧ ¬ wordInRange (ready.reg 4) := by decide +kernel

/-- For `IntegerCompareFlags` and `FcmpFlags`: both in range, the first not, the second not. -/
theorem witness_Compare :
    wordInRange (ready.reg 0) ∧ wordInRange (ready.reg 3) ∧ ¬ wordInRange (ready.reg 4) := by decide +kernel

/-- A destination that is also a source, at the last legal address, completes. -/
theorem witness_completes_at_the_edge :
    look (exec (.iadd 3 3 3) ready) 32766 = some (0, 0x0003, 2) := by decide +kernel

/-- Each side of both overflow thresholds: 2^128 - 2^103 and 2^1024 - 2^970, in units of 2^-1074, and the value one unit below. -/
theorem witness_RoundingIsNearestEven :
    (0 : Nat) < 1 ∧ (2 ^ 1202 - 2 ^ (1202 - 24 - 1)) * 1 ≤ 2 ^ 1202 - 2 ^ 1177 ∧
    2 ^ 1202 - 2 ^ 1177 - 1 < (2 ^ 1202 - 2 ^ (1202 - 24 - 1)) * 1 ∧
    (2 ^ 2098 - 2 ^ (2098 - 53 - 1)) * 1 ≤ 2 ^ 2098 - 2 ^ 2044 ∧
    2 ^ 2098 - 2 ^ 2044 - 1 < (2 ^ 2098 - 2 ^ (2098 - 53 - 1)) * 1 := by decide +kernel

/-- What the two roundings answer there: the largest finite value below the threshold, infinity at it. -/
theorem test_rounding_at_the_threshold :
    rn24 false (2 ^ 1202 - 2 ^ 1177 - 1) 1 = .fin false (2 ^ 1202 - 2 ^ 1178) ∧ rn24 true (2 ^ 1202 - 2 ^ 1177) 1 = .inf true ∧
    rn53 false (2 ^ 2098 - 2 ^ 2044 - 1) 1 = .fin false (2 ^ 2098 - 2 ^ 2045) ∧ rn53 true (2 ^ 2098 - 2 ^ 2044) 1 = .inf true := by
  decide +kernel

theorem witness_DatumWordRoundTrip :
    isNaN 0x7F800000 = false ∧ Representable 24 925 ((2 ^ 24 - 1) * 2 ^ 1178) ∧ (2 ^ 24 - 1) * 2 ^ 1178 < 2 ^ 1202 ∧
    Representable 24 925 (1 * 2 ^ 925) ∧ 1 * 2 ^ 925 < 2 ^ 1202 :=
  ⟨by decide, ⟨2 ^ 24 - 1, 1178, by decide, by decide, rfl⟩, by decide +kernel, ⟨1, 925, by decide, by decide, rfl⟩, by decide +kernel⟩

/-- A NaN, an infinity, a subnormal and the two ends of the normal range, by exponent field and fraction. -/
theorem witness_DatumWordRoundTrip_fields :
    ((0x7F800001 : Word).toNat / 2 ^ 23 % 2 ^ 8 = 255 ∧ (0x7F800001 : Word).toNat % 2 ^ 23 ≠ 0) ∧
    ((0xFF800000 : Word).toNat / 2 ^ 23 % 2 ^ 8 = 255 ∧ (0xFF800000 : Word).toNat % 2 ^ 23 = 0) ∧
    (0x807FFFFF : Word).toNat / 2 ^ 23 % 2 ^ 8 = 0 ∧ (0x00800000 : Word).toNat / 2 ^ 23 % 2 ^ 8 = 1 ∧
    (0x7F7FFFFF : Word).toNat / 2 ^ 23 % 2 ^ 8 = 254 := by decide

/-- The smallest subnormal and the largest finite value. -/
theorem witness_ProductExactInBinary64_NarrowingRoundsOnce :
    datum 0x80000001 = .fin true (1 * 2 ^ 925) ∧ datum 0x7F7FFFFF = .fin false ((2 ^ 24 - 1) * 2 ^ 1178) ∧
    key (datum 0x80000001) + key (datum 0x7F7FFFFF) ≠ 0 ∧ key (datum 0x80000001) - key (datum 0x7F7FFFFF) ≠ 0 := by
  decide +kernel

/-- Every mode resolves somewhere; the two that can fault do. -/
theorem witness_JmpTakesTarget :
    Resolves (jumpAt 0 0) (.abs 120) 120 ∧ Resolves (jumpAt 0 0) (.ind 500) 120 ∧ Resolves (jumpAt 0 0) (.ind 32766) 0 ∧
    Resolves (jumpAt 0 0) (.sum 7 9) 120 ∧ Resolves (jumpAt 0 0) (.rel 0xFFFC) 96 ∧ 32766 < (32767 : Half).toNat :=
  ⟨rfl, by unfold Resolves; decide +kernel, by unfold Resolves; decide +kernel, by unfold Resolves; decide +kernel,
    by unfold Resolves; decide +kernel, by decide⟩

/-- For `SignedConditionalJumps`, `UnsignedConditionalJumps`, `FloatConditionalJumps`: each relation of an equal and a greater flag
is met and not met, in every domain; the targets are those of `witness_JmpTakesTarget`. -/
theorem witness_ConditionalJumps : ∀ e ∈ [2, 4, 6],
    (getFlag ((started.setFlags (1#16 <<< e)).flags) e = true ∧ getFlag ((started.setFlags (1#16 <<< e)).flags) (e + 1) = false) ∧
    (getFlag ((started.setFlags (2#16 <<< e)).flags) e = false ∧ getFlag ((started.setFlags (2#16 <<< e)).flags) (e + 1) = true) ∧
    (getFlag started.flags e = false ∧ getFlag started.flags (e + 1) = false) := by decide +kernel

theorem witness_ConditionalJumps_after_compare :
    wordInRange (ready.reg 0) ∧ wordInRange (ready.reg 3) ∧ (∃ t, exec (.icmp 0 3) ready = .next t) ∧
    (∃ t, exec (.ucmp 0 3) ready = .next t) ∧ ∃ t, exec (.fcmp 0 3) ready = .next t :=
  ⟨by decide +kernel, by decide +kernel, ⟨_, rfl⟩, ⟨_, rfl⟩, ⟨_, rfl⟩⟩

theorem witness_GetfStoresFlag_SetfAssignsFlag :
    ready.mem.wf = true ∧ (0 : Half).toNat ≤ 15 ∧ (15 : Half).toNat ≤ 15 ∧ 15 < (16 : Half).toNat ∧ wordInRange (ready.reg 3) ∧
    ¬ wordInRange (ready.reg 4) := by decide +kernel

theorem witness_RetPopsReturn : (255 : Reg).toNat = 240 + (started.setSp 15).sp.toNat := by decide

theorem witness_NestedCallsReturn :
    (List.replicate 16 (40 : Half)).length ≤ 16 ∧ ([] : List Half).length ≤ 16 := by decide

theorem witness_SeventeenthCallLosesFirst : (List.replicate 16 (40 : Half)).length = 16 := by decide

theorem witness_ConsoleReads :
    ready.mem.wf = true ∧ wordInRange (ready.reg 3) ∧ ¬ wordInRange (ready.reg 4) ∧ ready.input = [] ∧
    (ready.setInput [.bad]).input = .bad :: [] ∧ (ready.setInput [.ok 7, .bad]).input = .ok 7 :: [.bad] := by decide +kernel

theorem witness_ConsolePrints : wordInRange (ready.reg 3) ∧ ¬ wordInRange (ready.reg 4) := by decide +kernel

theorem witness_StepKeepsInvariant : ∃ s t : State, s.wf = true ∧ step s = .next t :=
  ⟨ready, _, by decide +kernel, rfl⟩

theorem witness_ReachableStatesMeetInvariant :
    State.reset.wf = true ∧ Reachable State.reset ∧ ∃ t, Move State.reset t ∧ Reachable t :=
  ⟨by decide, .reset, _, .start 16 rfl, .move .reset (.start 16 rfl)⟩

/-- A step that ends in a fault. -/
theorem witness_FaultsArePrecise :
    ∃ t, step (started.setPc 32767) = .next t ∧ t.run = .faulted .fetchBounds 32767 := ⟨_, rfl, rfl⟩

theorem witness_FlagWriteMatrix : ∃ t, exec (.iadd 2 0 1) ready = .next t ∧ 12 ∉ flagsWritten (.iadd 2 0 1) :=
  ⟨_, rfl, by decide⟩

/-- A register, `SP`, `IN`, `OUT` and `RUN` each change in some step. -/
theorem witness_StateHasOneWriter :
    (∃ t, exec (.lda 5 7) ready = .next t ∧ t.reg 5 ≠ ready.reg 5) ∧
    (∃ t, exec (.call 7) ready = .next t ∧ t.sp ≠ ready.sp) ∧
    (∃ t, exec (.iread 3) (ready.setInput [.ok 7]) = .next t ∧ t.input ≠ (ready.setInput [.ok 7]).input) ∧
    (∃ t, exec (.iprint 3) ready = .next t ∧ t.output ≠ ready.output) ∧
    ∃ t, exec .halt ready = .next t ∧ t.run = .halted ∧ ready.run ≠ .halted :=
  ⟨⟨_, rfl, by decide +kernel⟩, ⟨_, rfl, by decide +kernel⟩, ⟨_, rfl, by decide +kernel⟩, ⟨_, rfl, by decide +kernel⟩,
    ⟨_, rfl, rfl, by decide +kernel⟩⟩

theorem witness_HostMemoryAccess :
    started.run = .running ∧ State.reset.run ≠ .running ∧ (State.reset.setRun (.faulted .memBounds 32767)).run ≠ .running ∧
    32766 < (32767 : Half).toNat ∧ (32766 : Half).toNat ≤ 32766 ∧ State.reset.mem.wf = true := by decide +kernel

theorem witness_HostStartRuns :
    started.run = .running ∧ State.reset.run ≠ .running ∧ (∃ t, hostStart State.reset 32767 = .next t) ∧
    32766 < (32767 : Half).toNat ∧ (32766 : Half).toNat ≤ 32766 ∧ decode (State.reset.word 32766) = .ok .halt :=
  ⟨by decide, by decide, ⟨_, rfl⟩, by decide, by decide, by decide +kernel⟩

end Sys2Proof.Tests
end

section
/-! The family of 10_state.md: what a next state of `exec` can be, said once as `Effect`, and from it the flag-write matrix (R30)
and the owners of registers, `SP`, `IN`, `OUT` and `RUN` (R23, R31, R35, R113); the values at reset (R38). -/

namespace Sys2Proof.Proofs

open Sys2Proof.Machine Sys2Proof.Claims

variable {s t : State} {i : Instr}

/-! Which flags each flag computation leaves alone. -/

/-- The flag registers `f` and `g` agree in every flag outside `fl`. -/
def AgreeOutside (fl : List Nat) (f g : Half) : Prop := ∀ k, k ∉ fl → getFlag g k = getFlag f k

section flags
variable (f : Half) (wa wb r : Word) (S U q : Int) (z equal greater : Bool) (D : Datum) (op : FloatOp)

theorem agreeOutside_intFlags : AgreeOutside [0, 1, 8] f (intFlags f r) := by
  intro k hk
  simp_all [getFlag_intFlags]

theorem agreeOutside_floatFlags : AgreeOutside [0, 8] f (floatFlags f r) := by
  intro k hk
  simp_all [getFlag_floatFlags]

/-- R142 -/
theorem agreeOutside_wideResult : AgreeOutside [0, 1, 8, 9, 10] f (wideResult S U f).2 := by
  intro k hk
  simp_all [wideResult, getFlag_intFlags, getFlag_overflowFlags]

/-- R146: `C` but not `V`. -/
theorem agreeOutside_aluUmul : AgreeOutside [0, 1, 8, 10] f (aluUmul wa wb f).2 := by
  intro k hk
  simp_all [aluUmul, getFlag_intFlags, getFlag_carryFlag]

/-- R147 -/
theorem agreeOutside_divResult : AgreeOutside [0, 1, 8, 12] f (divResult z q f).2 := by
  intro k hk
  simp_all [divResult, getFlag_intFlags, getFlag_divZeroFlag]

/-- R171, R172 -/
theorem agreeOutside_floatResult : AgreeOutside [0, 8, 11] f (floatResult op wa wb D f).2 := by
  intro k hk
  simp_all [floatResult, getFlag_floatFlags, getFlag_floatOverflowFlag]

/-- R178: `DZ` but not `FO`. -/
theorem agreeOutside_aluFdiv : AgreeOutside [0, 8, 12] f (aluFdiv wa wb f).2 := by
  intro k hk
  simp_all [aluFdiv, getFlag_floatFlags, getFlag_divZeroFlag]

/-- R190 -/
theorem agreeOutside_compareFlags {e : Nat} (he : e + 1 < 16) :
    AgreeOutside [e, e + 1] f (compareFlags f e equal greater) := by
  intro k hk
  simp_all [getFlag_compareFlags]

/-- R29 -/
theorem agreeOutside_setFlag {k : Nat} (hk : k < 16) : AgreeOutside [k] f (setFlag f k z) := by
  intro j hj
  simp_all [getFlag_setFlag]

end flags

/-! What an instruction can do. -/

/-- All that `exec i s` can make of `s`: each form of next state, with what it says of `i`. -/
inductive Effect (s : State) : Instr → State → Prop where
  /-- R116: a fault changes `RUN` alone. -/
  | fault {i : Instr} (c : Cause) (info : Half) : Effect s i (s.takeFault c info)
  /-- R113 -/
  | halt : Effect s .halt (s.setRun .halted)
  /-- A jump, taken or not, sets `pc` alone (R200, R201). -/
  | jump {i : Instr} (p : Half) : Effect s i (s.setPc p)
  /-- R131 -/
  | lda (d : Reg) (addr : Half) : Effect s (.lda d addr) ((s.setReg d addr).advance)
  /-- R133 -/
  | ldp (d src : Reg) : Effect s (.ldp d src) ((s.setReg d (lo (s.val src))).advance)
  /-- A Word is stored and no flag written: `MOV`, `GETF` (R132, R241). -/
  | store {i : Instr} (d : Reg) (w : Word) : Effect s i ((s.setVal d w).advance)
  /-- A result is stored with its flags (R140). -/
  | result {i : Instr} {f : Half} (hf : AgreeOutside (flagsWritten i) s.flags f) (d : Reg) (w : Word) :
      Effect s i (((s.setFlags f).setVal d w).advance)
  /-- Flags alone: a compare or `SETF` (R190, R242). -/
  | flags {i : Instr} {f : Half} (hf : AgreeOutside (flagsWritten i) s.flags f) : Effect s i ((s.setFlags f).advance)
  /-- R262: one `ok` token is taken. -/
  | read {i : Instr} {w : Word} {rest : List Token} (hi : isRead i) (hin : s.input = .ok w :: rest) (r : Reg) :
      Effect s i (((s.setInput rest).setVal r w).advance)
  /-- R267: one event is appended. -/
  | print {i : Instr} {k : Kind} (hk : printKind i k) (w : Word) :
      Effect s i ((s.setOutput (s.output ++ [⟨k, w⟩])).advance)
  /-- R251 -/
  | call (addr : Half) : Effect s (.call addr) (((s.push (s.pc + 2)).setPc (addr - 2)).advance)
  /-- R252 -/
  | ret : Effect s .ret ((s.pop.2.setPc (s.pop.1 - 2)).advance)

/-! The shared shapes, as effects. -/

theorem binaryOp_effect {f : Word → Word → Half → Word × Half} {d a b : Reg} (h : binaryOp f d a b s = .next t)
    (hf : ∀ wa wb, AgreeOutside (flagsWritten i) s.flags (f wa wb s.flags).2) : Effect s i t := by
  obtain ⟨-, -, -, rfl⟩ | ⟨r, -, -, rfl⟩ := binaryOp_cases h
  · exact .result (hf _ _) d _
  · exact .fault _ _

theorem unaryOp_effect {f : Word → Half → Word × Half} {r : Reg} (h : unaryOp f r s = .next t)
    (hf : ∀ wa, AgreeOutside (flagsWritten i) s.flags (f wa s.flags).2) : Effect s i t := by
  obtain ⟨-, rfl⟩ | ⟨-, rfl⟩ := unaryOp_cases h
  · exact .result (hf _) r _
  · exact .fault _ _

theorem compareOp_effect {f : Word → Word → Half → Half} {a b : Reg} (h : compareOp f a b s = .next t)
    (hf : ∀ wa wb, AgreeOutside (flagsWritten i) s.flags (f wa wb s.flags)) : Effect s i t := by
  obtain ⟨-, -, rfl⟩ | ⟨r, -, -, rfl⟩ := compareOp_cases h
  · exact .flags (hf _ _)
  · exact .fault _ _

theorem jumpTo_effect {g : Target} (h : jumpTo g s = .next t) : Effect s i t := by
  obtain ⟨p, rfl⟩ | ⟨mode, -, rfl⟩ | ⟨addr, -, -, rfl⟩ := jumpTo_cases h
  · exact .jump p
  · exact .fault _ _
  · exact .fault _ _

theorem jumpIf_effect {c : Bool} {g : Target} (h : jumpIf c g s = .next t) : Effect s i t := by
  obtain ⟨-, h⟩ | ⟨-, rfl⟩ := jumpIf_cases h
  · exact jumpTo_effect h
  · exact .jump _

theorem consoleRead_effect {r : Reg} (h : consoleRead r s = .next t) (hi : isRead i) : Effect s i t := by
  obtain ⟨w, rest, -, hin, rfl⟩ | ⟨rest, -, -, rfl⟩ | ⟨-, rfl⟩ := consoleRead_cases h
  · exact .read hi hin r
  · exact .fault _ _
  · exact .fault _ _

theorem consolePrint_effect {k : Kind} {r : Reg} (h : consolePrint k r s = .next t) (hk : printKind i k) :
    Effect s i t := by
  obtain ⟨-, rfl⟩ | ⟨-, rfl⟩ := consolePrint_cases h
  · exact .print hk _
  · exact .fault _ _

theorem execMov_effect {d src : Reg} (h : execMov d src s = .next t) : Effect s (.mov d src) t := by
  obtain ⟨-, -, rfl⟩ | ⟨r, -, -, rfl⟩ := execMov_cases h
  · exact .store d _
  · exact .fault _ _

theorem execLdp_effect {d src : Reg} (h : execLdp d src s = .next t) : Effect s (.ldp d src) t := by
  obtain ⟨-, rfl⟩ | ⟨-, rfl⟩ := execLdp_cases h
  · exact .ldp d src
  · exact .fault _ _

theorem execGetf_effect {r : Reg} {k : Half} (h : execGetf r k s = .next t) : Effect s (.getf r k) t := by
  obtain ⟨-, -, rfl⟩ | ⟨-, rfl⟩ | ⟨-, -, rfl⟩ := execGetf_cases h
  · exact .store r _
  · exact .fault _ _
  · exact .fault _ _

theorem execSetf_effect {r : Reg} {k : Half} (h : execSetf r k s = .next t) : Effect s (.setf r k) t := by
  obtain ⟨hk, -, rfl⟩ | ⟨-, rfl⟩ | ⟨-, -, rfl⟩ := execSetf_cases h
  · exact .flags (agreeOutside_setFlag _ _ (by omega))
  · exact .fault _ _
  · exact .fault _ _

/-- Every next state of `exec` is one of the effects of its instruction. -/
theorem exec_effect (h : exec i s = .next t) : Effect s i t := by
  cases i with
  | halt => exact Host.Outcome.next.inj h ▸ .halt
  | jmp g => exact jumpTo_effect h
  | ije g | ijg g | ijl g | ijne g | ijge g | ijle g => exact jumpIf_effect h
  | uje g | ujg g | ujl g | ujne g | ujge g | ujle g => exact jumpIf_effect h
  | fje g | fjg g | fjl g | fjne g | fjge g | fjle g => exact jumpIf_effect h
  | lda r addr => exact Host.Outcome.next.inj h ▸ .lda r addr
  | mov d src => exact execMov_effect h
  | ldp d src => exact execLdp_effect h
  | iadd d a b | isub d a b | imul d a b => exact binaryOp_effect h fun _ _ => agreeOutside_wideResult _ _ _
  | umul d a b => exact binaryOp_effect h fun _ _ => agreeOutside_aluUmul _ _ _
  | idiv d a b | udiv d a b | imod d a b | umod d a b =>
    exact binaryOp_effect h fun _ _ => agreeOutside_divResult _ _ _
  | fadd d a b | fsub d a b | fmul d a b => exact binaryOp_effect h fun _ _ => agreeOutside_floatResult _ _ _ _ _
  | fdiv d a b => exact binaryOp_effect h fun _ _ => agreeOutside_aluFdiv _ _ _
  | inc r | dec r => exact unaryOp_effect h fun _ => agreeOutside_wideResult _ _ _
  | ineg r | not r => exact unaryOp_effect h fun _ => agreeOutside_intFlags _ _
  | fneg r => exact unaryOp_effect h fun _ => agreeOutside_floatFlags _ _
  | icmp a b | ucmp a b | fcmp a b =>
    exact compareOp_effect h fun _ _ => agreeOutside_compareFlags _ _ _ (by decide)
  | and d a b | or d a b | xor d a b => exact binaryOp_effect h fun _ _ => agreeOutside_intFlags _ _
  | getf r k => exact execGetf_effect h
  | setf r k => exact execSetf_effect h
  | iread r => exact consoleRead_effect h ⟨r, .inl rfl⟩
  | uread r => exact consoleRead_effect h ⟨r, .inr (.inl rfl)⟩
  | fread r => exact consoleRead_effect h ⟨r, .inr (.inr rfl)⟩
  | iprint r => exact consolePrint_effect h ⟨r, .inl ⟨rfl, rfl⟩⟩
  | uprint r => exact consolePrint_effect h ⟨r, .inr (.inl ⟨rfl, rfl⟩)⟩
  | fprint r => exact consolePrint_effect h ⟨r, .inr (.inr ⟨rfl, rfl⟩)⟩
  | call addr => exact Host.Outcome.next.inj h ▸ .call addr
  | ret => exact Host.Outcome.next.inj h ▸ .ret

/-! What an effect says of the instruction that had it, one part of the state at a time. -/

theorem Effect.agreeOutside_flagsWritten (e : Effect s i t) : AgreeOutside (flagsWritten i) s.flags t.flags := by
  cases e with
  | result hf => exact hf
  | flags hf => exact hf
  | _ => exact fun _ _ => rfl

/-- R9, turned round: a register that a register write changed is the one it names. -/
theorem eq_of_setReg_reg_ne {d j : Reg} {v : Half} (hj : (s.setReg d v).reg j ≠ s.reg j) : j = d := by
  by_contra hne
  exact hj (by rw [State.setReg_reg, if_neg hne])

/-- R23 -/
theorem Effect.reg_writer (e : Effect s i t) {j : Reg} (hj : t.reg j ≠ s.reg j) :
    (∃ addr, i = .lda j addr) ∨ (∃ src, i = .ldp j src) ∨ ∃ addr, i = .call addr ∧ j.toNat = 240 + s.sp.toNat := by
  cases e with
  | lda d addr => exact .inl ⟨addr, by rw [eq_of_setReg_reg_ne hj]⟩
  | ldp d src => exact .inr (.inl ⟨src, by rw [eq_of_setReg_reg_ne hj]⟩)
  | call addr =>
    have hslot : j = ringSlot s.sp := eq_of_setReg_reg_ne hj
    exact .inr (.inr ⟨addr, rfl, by rw [hslot, ringSlot_toNat]⟩)
  | _ => exact absurd rfl hj

/-- R31 -/
theorem Effect.sp_writer (e : Effect s i t) (hsp : t.sp ≠ s.sp) : (∃ addr, i = .call addr) ∨ i = .ret := by
  cases e with
  | call addr => exact .inl ⟨addr, rfl⟩
  | ret => exact .inr rfl
  | _ => exact absurd rfl hsp

/-- R35, R272: only a read takes input, and it takes the first token, an `ok` one. -/
theorem Effect.input_writer (e : Effect s i t) (hin : t.input ≠ s.input) :
    isRead i ∧ ∃ w, s.input = .ok w :: t.input := by
  cases e with
  | read hi htok => exact ⟨hi, _, htok⟩
  | _ => exact absurd rfl hin

/-- R35, R272: only a print gives output, one event of its kind. -/
theorem Effect.output_writer (e : Effect s i t) (hout : t.output ≠ s.output) :
    ∃ k w, printKind i k ∧ t.output = s.output ++ [⟨k, w⟩] := by
  cases e with
  | print hk w => exact ⟨_, w, hk, rfl⟩
  | _ => exact absurd rfl hout

/-- R113: only `HALT` halts; a fault leaves `RUN` faulted, not halted. -/
theorem Effect.halt_of_run (e : Effect s i t) (ht : t.run = .halted) (hs : s.run ≠ .halted) : i = .halt := by
  cases e with
  | halt => rfl
  | fault => cases ht
  | _ => exact absurd ht hs

/-! Reset. -/

/-- R38: no cell is listed, so every cell reads 0. -/
theorem reset_cell (c : Nat) : State.reset.mem.cell c = 0 := rfl

/-- R38 -/
theorem reset_reg (j : Reg) : State.reset.reg j = 0 := by
  simp [State.reg, State.reset]

/-! The obligations. -/

/-- Settles O56: an effect writes flags of its instruction's row only. -/
theorem flagWriteMatrix : Obligations.FlagWriteMatrix :=
  fun _ _ _ h => (exec_effect h).agreeOutside_flagsWritten

/-- Settles O57, part by part from the one list of effects. -/
theorem stateHasOneWriter : Obligations.StateHasOneWriter := by
  intro i s t h
  have e := exec_effect h
  exact ⟨fun _ => e.reg_writer, e.sp_writer, e.input_writer, e.output_writer, e.halt_of_run⟩

/-- Settles O53: the empty memory is in canonical form, and a halted core holds no fault record. -/
theorem resetMeetsInvariant : Obligations.ResetMeetsInvariant := by
  have hmem : State.reset.mem.wf = true := rfl
  have hrec : State.reset.recordWf = true := rfl
  rw [Obligations.ResetMeetsInvariant, State.wf, hmem, hrec, Bool.and_self]

/-- Settles O58: memory and registers cell by cell, the other fields as reset writes them. -/
theorem resetValues : Obligations.ResetValues :=
  ⟨reset_cell, reset_reg, rfl, rfl, rfl, rfl, rfl⟩

end Sys2Proof.Proofs
end

section
/-! The family of 20_memory.md: what reads and writes of memory answer (R52, R53), and the invariant of every step, the canonical
form of memory (R50) with a fault record that R281 allows, from one list of what a step does to `MEM` and `RUN`. -/

namespace Sys2Proof.Proofs

open Sys2Proof.Machine Sys2Proof.Claims

/-! The two halves of a Word as numbers, and a Word from its two cells. -/

theorem lo_toNat (w : Word) : (lo w).toNat = w.toNat % 2 ^ 16 := by
  rw [lo, field_toNat]
  omega

theorem hi_toNat (w : Word) : (hi w).toNat = w.toNat / 2 ^ 16 := by
  rw [hi, field_toNat]
  omega

/-- R52 -/
theorem word_toNat (m : Memory) (a : Half) :
    (m.word a).toNat = (m.cell a.toNat).toNat + 2 ^ 16 * (m.cell (a.toNat + 1)).toNat := by
  rw [Memory.word, toNat_append_eq]
  omega

/-! The checked accesses to one cell. -/

section cells
variable (m : Memory) {a : Half} (w : Word)

theorem memReadCell_of_inRange (h : cellInRange a) : memReadCell m a = some (m.cell a.toNat) := if_pos h

theorem memReadCell_of_not_inRange (h : ¬ cellInRange a) : memReadCell m a = none := if_neg h

theorem memWriteCell_of_inRange (h : cellInRange a) : memWriteCell m a w = some (m.setCell a.toNat (lo w)) := if_pos h

theorem memWriteCell_of_not_inRange (h : ¬ cellInRange a) : memWriteCell m a w = none := if_neg h

end cells

/-! What the decoder says of the parts of an instruction that can make it fault. -/

/-- R194: the modes 0 to 3 have terms of their own, so what is decoded as illegal is a mode above 3. -/
theorem decodeTarget_wellFormed (w : Word) : (decodeTarget w).wellFormed = true := by
  unfold decodeTarget
  split
  case h_5 h0 h1 h2 h3 =>
    rw [imp_false] at h0 h1 h2 h3
    have hmode : 3 < (s1 w).toNat := by omega
    exact decide_eq_true hmode
  all_goals rfl

/-- R84: a jump takes its operand from the whole of format J. -/
theorem target_of_decode {w : Word} {i : Instr} (h : decode w = .ok i) :
    i.target? = none ∨ i.target? = some (decodeTarget w) := by
  unfold decode at h
  split at h <;> cases h <;> simp [Instr.target?]

theorem wellFormed_of_decode {w : Word} {i : Instr} (h : decode w = .ok i) : i.wellFormed = true := by
  unfold Instr.wellFormed
  obtain hnone | hsome := target_of_decode h
  · rw [hnone]
  · rw [hsome]
    exact decodeTarget_wellFormed w

/-- R92: only the opcodes from 56 on are reserved. -/
theorem reserved_of_decode {w : Word} {op : Slot} (h : decode w = .error (.reservedOpcode op)) : 56 ≤ op.toNat := by
  unfold decode at h
  split at h <;> cases h
  simp only [imp_false] at *
  omega

variable {s t : State} {i : Instr}

/-! The invariant, part by part. -/

theorem wf_iff : s.wf = true ↔ s.mem.wf = true ∧ s.recordWf = true := by
  rw [State.wf, Bool.and_eq_true]

theorem recordWf_of_running (h : s.run = .running) : s.recordWf = true := by
  rw [State.recordWf, h]

theorem recordWf_of_halted (h : s.run = .halted) : s.recordWf = true := by
  rw [State.recordWf, h]

/-! The rows of R281, each with what raises it. -/

theorem recordWf_illegalOpcode {op : Slot} (h : 56 ≤ op.toNat) :
    (s.takeFault .illegalOpcode (op.setWidth 16)).recordWf = true := by
  have hinfo : (op.setWidth 16).toNat = op.toNat := BitVec.toNat_setWidth_of_le (by decide)
  exact decide_eq_true (by omega)

theorem recordWf_illegalMode {mode : Slot} (h : 3 < mode.toNat) :
    (s.takeFault .illegalOperand (mode.setWidth 16)).recordWf = true := by
  have hinfo : (mode.setWidth 16).toNat = mode.toNat := BitVec.toNat_setWidth_of_le (by decide)
  exact decide_eq_true (by omega)

theorem recordWf_illegalIndex {k : Half} (h : ¬ k.toNat ≤ 15) : (s.takeFault .illegalOperand k).recordWf = true :=
  decide_eq_true (by omega)

theorem recordWf_memBounds {a : Half} (h : ¬ wordInRange a) : (s.takeFault .memBounds a).recordWf = true :=
  decide_eq_true (Nat.not_le.mp h)

theorem recordWf_fetchBounds (h : ¬ wordInRange s.pc) : (s.takeFault .fetchBounds s.pc).recordWf = true := by
  simpa [State.recordWf] using h

theorem recordWf_inputError : (s.takeFault .inputError 0).recordWf = true := rfl

/-! What a step does to `MEM` and `RUN`. -/

/-- All that a step can make of `MEM` and `RUN`. -/
inductive MemRunEffect (s : State) : State → Prop where
  /-- Neither changes. -/
  | keep {t : State} (hmem : t.mem = s.mem) (hrun : t.run = s.run) : MemRunEffect s t
  /-- One Word is stored, at a legal address (R54). -/
  | store {t : State} {a : Half} {w : Word} (ha : wordInRange a) (hmem : t.mem = s.mem.setWord a w)
      (hrun : t.run = s.run) : MemRunEffect s t
  /-- R113 -/
  | halt : MemRunEffect s (s.setRun .halted)
  /-- R280: a fault, with the information R281 gives its cause. -/
  | fault {c : Cause} {info : Half} (hrec : (s.takeFault c info).recordWf = true) : MemRunEffect s (s.takeFault c info)

/-! The shared shapes. -/

theorem binaryOp_memRun {f : Word → Word → Half → Word × Half} {d a b : Reg} (h : binaryOp f d a b s = .next t) :
    MemRunEffect s t := by
  obtain ⟨-, -, hd, rfl⟩ | ⟨r, -, hr, rfl⟩ := binaryOp_cases h
  · exact .store hd rfl rfl
  · exact .fault (recordWf_memBounds hr)

theorem unaryOp_memRun {f : Word → Half → Word × Half} {r : Reg} (h : unaryOp f r s = .next t) : MemRunEffect s t := by
  obtain ⟨hr, rfl⟩ | ⟨hr, rfl⟩ := unaryOp_cases h
  · exact .store hr rfl rfl
  · exact .fault (recordWf_memBounds hr)

theorem compareOp_memRun {f : Word → Word → Half → Half} {a b : Reg} (h : compareOp f a b s = .next t) :
    MemRunEffect s t := by
  obtain ⟨-, -, rfl⟩ | ⟨r, -, hr, rfl⟩ := compareOp_cases h
  · exact .keep rfl rfl
  · exact .fault (recordWf_memBounds hr)

theorem jumpTo_memRun {g : Target} (h : jumpTo g s = .next t) (hg : g.wellFormed = true) : MemRunEffect s t := by
  obtain ⟨p, rfl⟩ | ⟨mode, rfl, rfl⟩ | ⟨addr, -, haddr, rfl⟩ := jumpTo_cases h
  · exact .keep rfl rfl
  · exact .fault (recordWf_illegalMode (of_decide_eq_true hg))
  · exact .fault (recordWf_memBounds haddr)

theorem jumpIf_memRun {c : Bool} {g : Target} (h : jumpIf c g s = .next t) (hg : g.wellFormed = true) :
    MemRunEffect s t := by
  obtain ⟨-, h⟩ | ⟨-, rfl⟩ := jumpIf_cases h
  · exact jumpTo_memRun h hg
  · exact .keep rfl rfl

theorem consoleRead_memRun {r : Reg} (h : consoleRead r s = .next t) : MemRunEffect s t := by
  obtain ⟨w, rest, hr, -, rfl⟩ | ⟨rest, -, -, rfl⟩ | ⟨hr, rfl⟩ := consoleRead_cases h
  · exact .store hr rfl rfl
  · exact .fault recordWf_inputError
  · exact .fault (recordWf_memBounds hr)

theorem consolePrint_memRun {k : Kind} {r : Reg} (h : consolePrint k r s = .next t) : MemRunEffect s t := by
  obtain ⟨-, rfl⟩ | ⟨hr, rfl⟩ := consolePrint_cases h
  · exact .keep rfl rfl
  · exact .fault (recordWf_memBounds hr)

theorem execMov_memRun {d src : Reg} (h : execMov d src s = .next t) : MemRunEffect s t := by
  obtain ⟨-, hd, rfl⟩ | ⟨r, -, hr, rfl⟩ := execMov_cases h
  · exact .store hd rfl rfl
  · exact .fault (recordWf_memBounds hr)

theorem execLdp_memRun {d src : Reg} (h : execLdp d src s = .next t) : MemRunEffect s t := by
  obtain ⟨-, rfl⟩ | ⟨hr, rfl⟩ := execLdp_cases h
  · exact .keep rfl rfl
  · exact .fault (recordWf_memBounds hr)

theorem execGetf_memRun {r : Reg} {k : Half} (h : execGetf r k s = .next t) : MemRunEffect s t := by
  obtain ⟨-, hr, rfl⟩ | ⟨hk, rfl⟩ | ⟨-, hr, rfl⟩ := execGetf_cases h
  · exact .store hr rfl rfl
  · exact .fault (recordWf_illegalIndex hk)
  · exact .fault (recordWf_memBounds hr)

theorem execSetf_memRun {r : Reg} {k : Half} (h : execSetf r k s = .next t) : MemRunEffect s t := by
  obtain ⟨-, -, rfl⟩ | ⟨hk, rfl⟩ | ⟨-, hr, rfl⟩ := execSetf_cases h
  · exact .keep rfl rfl
  · exact .fault (recordWf_illegalIndex hk)
  · exact .fault (recordWf_memBounds hr)

/-- Well-formedness matters to the jumps alone: without it the term of an illegal mode could name a legal one. -/
theorem exec_memRun (h : exec i s = .next t) (hi : i.wellFormed = true) : MemRunEffect s t := by
  cases i with
  | halt => exact Host.Outcome.next.inj h ▸ .halt
  | jmp g => exact jumpTo_memRun h hi
  | ije g | ijg g | ijl g | ijne g | ijge g | ijle g => exact jumpIf_memRun h hi
  | uje g | ujg g | ujl g | ujne g | ujge g | ujle g => exact jumpIf_memRun h hi
  | fje g | fjg g | fjl g | fjne g | fjge g | fjle g => exact jumpIf_memRun h hi
  | mov d src => exact execMov_memRun h
  | ldp d src => exact execLdp_memRun h
  | iadd d a b | isub d a b | imul d a b | umul d a b => exact binaryOp_memRun h
  | idiv d a b | udiv d a b | imod d a b | umod d a b => exact binaryOp_memRun h
  | fadd d a b | fsub d a b | fmul d a b | fdiv d a b => exact binaryOp_memRun h
  | and d a b | or d a b | xor d a b => exact binaryOp_memRun h
  | inc r | dec r | ineg r | fneg r | not r => exact unaryOp_memRun h
  | icmp a b | ucmp a b | fcmp a b => exact compareOp_memRun h
  | getf r k => exact execGetf_memRun h
  | setf r k => exact execSetf_memRun h
  | iread r | uread r | fread r => exact consoleRead_memRun h
  | iprint r | uprint r | fprint r => exact consolePrint_memRun h
  | lda _ _ | call _ | ret =>
    obtain rfl := Host.Outcome.next.inj h
    exact .keep rfl rfl

/-- The two faults of the fetch, or the effect of the instruction fetched (R110). -/
theorem step_memRun (h : step s = .next t) : MemRunEffect s t := by
  obtain ⟨-, ⟨hpc, rfl⟩ | ⟨op, -, hop, rfl⟩ | ⟨i, -, hi, hexec⟩⟩ := step_cases h
  · exact .fault (recordWf_fetchBounds hpc)
  · exact .fault (recordWf_illegalOpcode (reserved_of_decode hop))
  · exact exec_memRun hexec (wellFormed_of_decode hi)

/-- From a running core: `pc`, which a record of `FetchBounds` repeats, may change where no fault is on record. -/
theorem MemRunEffect.keeps_wf (e : MemRunEffect s t) (hrunning : s.run = .running) (hmem : s.mem.wf = true) :
    t.wf = true := by
  rw [wf_iff]
  cases e with
  | keep hm hr => exact ⟨hm ▸ hmem, recordWf_of_running (hr.trans hrunning)⟩
  | store ha hm hr => exact ⟨hm ▸ Memory.wf_setWord hmem ha, recordWf_of_running (hr.trans hrunning)⟩
  | halt => exact ⟨hmem, recordWf_of_halted rfl⟩
  | fault hrec => exact ⟨hmem, hrec⟩

/-! The obligations. -/

/-- Settles O52: a step is taken by a running core, and each effect on `MEM` and `RUN` keeps the invariant. -/
theorem stepKeepsInvariant : Obligations.StepKeepsInvariant := by
  intro s t hwf h
  obtain ⟨hrunning, -⟩ := step_cases h
  obtain ⟨hmem, -⟩ := wf_iff.mp hwf
  exact (step_memRun h).keeps_wf hrunning hmem

/-- Settles O2, from the cells that `setWord` and `setCell` leave. -/
theorem memWriteReadsBack : Obligations.MemWriteReadsBack := by
  refine ⟨fun m a w ha => memWrite_of_not_inRange m w (by omega),
    fun m a w ha => memWriteCell_of_not_inRange m w (by omega), fun m a w hwf ha => ?_, fun m a w hwf ha => ?_⟩
  · have hcell := Memory.cell_setWord hwf ha w
    refine ⟨m.setWord a w, memWrite_of_inRange m w ha, Memory.wf_setWord hwf ha, ?_, ?_, ?_, fun c hlow hhigh => ?_⟩
    · rw [memRead_of_inRange _ ha, Memory.word_setWord_self hwf ha]
    · rw [hcell, if_pos rfl, lo_toNat]
    · rw [hcell, if_neg (by omega), if_pos rfl, hi_toNat]
    · rw [hcell, if_neg hlow, if_neg hhigh]
  · have hcell := Memory.cell_setCell hwf a.toNat (lo w)
    refine ⟨m.setCell a.toNat (lo w), memWriteCell_of_inRange m w ha, Memory.wf_setCell hwf (by omega), ?_,
      fun c hc => ?_⟩
    · rw [hcell, if_pos rfl, lo_toNat]
    · rw [hcell, if_neg hc]

/-- Settles O1: the bounds of each access, and the Word as its two cells. -/
theorem memReadValueAndBounds : Obligations.MemReadValueAndBounds :=
  ⟨fun m _ ha => memRead_of_not_inRange m (Nat.not_le.mpr ha),
    fun m _ ha => memReadCell_of_not_inRange m (Nat.not_le.mpr ha),
    fun m a ha => ⟨m.word a, memRead_of_inRange m ha, word_toNat m a⟩,
    fun m _ ha => memReadCell_of_inRange m ha⟩

end Sys2Proof.Proofs
end

section
/-! The family of 30_encoding.md: what `decode` answers, said once as the fields that each instruction names (R80 to R90), and
from it the round trip with `encode`, the normal form of a Word, the fields that do not count, and `HALT` (R91, R113). -/

namespace Sys2Proof.Proofs

open Sys2Proof.Machine

/-! A Word and its fields. -/

section fields
variable (w : Word)

/-- R81: the four slots are the whole Word. -/
theorem formatA_fields : formatA (opField w) (s1 w) (s2 w) (s3 w) = w := by
  apply BitVec.eq_of_toNat_eq
  simp only [formatA_toNat, opField, s1, s2, s3, field_toNat]
  omega

/-- R82: so are the opcode, one slot and the 16-bit field. -/
theorem formatB_fields : formatB (opField w) (s1 w) (a16 w) = w := by
  apply BitVec.eq_of_toNat_eq
  simp only [formatB_toNat, opField, s1, a16, field_toNat]
  omega

theorem opField_toNat : (opField w).toNat = w.toNat % 256 := by
  rw [opField, field_toNat]
  omega

end fields

/-! The fields that a jump's operand names (R84, R194). -/

section
variable {w v : Word} {t : Target} {i : Instr}

/-- The Word `w` has the mode of `t` in `s1`, and what `t` holds in the fields that its mode reads (R195 to R199). -/
def HasTarget (w : Word) : Target → Prop
  | .abs addr => s1 w = 0 ∧ a16 w = addr
  | .ind addr => s1 w = 1 ∧ a16 w = addr
  | .sum ra rb => s1 w = 2 ∧ s2 w = ra ∧ s3 w = rb
  | .rel off => s1 w = 3 ∧ a16 w = off
  | .illegal mode => s1 w = mode ∧ 3 < mode.toNat

theorem hasTarget_decodeTarget (w : Word) : HasTarget w (decodeTarget w) := by
  have hwf := decodeTarget_wellFormed w
  revert hwf
  unfold decodeTarget
  split <;> intro hwf
  case h_1 hmode | h_2 hmode | h_4 hmode => exact ⟨BitVec.eq_of_toNat_eq hmode, rfl⟩
  case h_3 hmode => exact ⟨BitVec.eq_of_toNat_eq hmode, rfl, rfl⟩
  case h_5 => exact ⟨rfl, of_decide_eq_true hwf⟩

/-- A Word has the fields of one operand only, the one that is decoded. -/
theorem decodeTarget_of_hasTarget (h : HasTarget w t) : decodeTarget w = t := by
  cases t with
  | abs addr | ind addr | rel off =>
    obtain ⟨hmode, rfl⟩ := h
    simp [decodeTarget, hmode]
  | sum ra rb =>
    obtain ⟨hmode, rfl, rfl⟩ := h
    simp [decodeTarget, hmode]
  | illegal mode =>
    obtain ⟨rfl, hillegal⟩ := h
    unfold decodeTarget
    split
    case h_5 => rfl
    all_goals omega

/-! The fields that an instruction names (R81 to R89). -/

/-- The Word `w` has the operands of `i` in the fields that the rule of `i` names; the other fields are not asked (R90). -/
def HasOperands (w : Word) : Instr → Prop
  | .halt | .ret => True
  | .jmp t | .ije t | .ijg t | .ijl t | .ijne t | .ijge t | .ijle t
  | .uje t | .ujg t | .ujl t | .ujne t | .ujge t | .ujle t
  | .fje t | .fjg t | .fjl t | .fjne t | .fjge t | .fjle t => HasTarget w t
  | .lda r k | .getf r k | .setf r k => s1 w = r ∧ a16 w = k
  | .mov d s | .ldp d s => s1 w = d ∧ s2 w = s
  | .iadd d a b | .isub d a b | .fadd d a b | .fsub d a b | .imul d a b | .umul d a b | .fmul d a b
  | .idiv d a b | .udiv d a b | .fdiv d a b | .imod d a b | .umod d a b
  | .and d a b | .or d a b | .xor d a b => s1 w = d ∧ s2 w = a ∧ s3 w = b
  | .inc r | .dec r | .ineg r | .fneg r | .not r
  | .iread r | .uread r | .fread r | .iprint r | .uprint r | .fprint r => s3 w = r
  | .icmp a b | .ucmp a b | .fcmp a b => s2 w = a ∧ s3 w = b
  | .call addr => a16 w = addr

/-- R87: the opcodes are 0 to 55. -/
theorem opcode_le (i : Instr) : i.opcode.toNat ≤ 55 := by
  cases i <;> simp [Instr.opcode]

theorem opField_of_decode (h : decode w = .ok i) : opField w = i.opcode := by
  apply BitVec.eq_of_toNat_eq
  unfold decode at h
  split at h <;> cases h <;> assumption

theorem hasOperands_of_decode (h : decode w = .ok i) : HasOperands w i := by
  unfold decode at h
  split at h <;> cases h <;> simp [HasOperands, hasTarget_decodeTarget]

theorem decode_of_hasOperands (hop : opField w = i.opcode) (h : HasOperands w i) : decode w = .ok i := by
  cases i with
  | halt | ret => simp [decode, hop, Instr.opcode]
  | jmp t | ije t | ijg t | ijl t | ijne t | ijge t | ijle t
  | uje t | ujg t | ujl t | ujne t | ujge t | ujle t
  | fje t | fjg t | fjl t | fjne t | fjge t | fjle t =>
    obtain rfl := decodeTarget_of_hasTarget h
    simp [decode, hop, Instr.opcode]
  | iadd d a b | isub d a b | fadd d a b | fsub d a b | imul d a b | umul d a b | fmul d a b
  | idiv d a b | udiv d a b | fdiv d a b | imod d a b | umod d a b | and d a b | or d a b | xor d a b =>
    obtain ⟨rfl, rfl, rfl⟩ := h
    simp [decode, hop, Instr.opcode]
  | lda r k | getf r k | setf r k | mov d s | ldp d s | icmp a b | ucmp a b | fcmp a b =>
    obtain ⟨rfl, rfl⟩ := h
    simp [decode, hop, Instr.opcode]
  | inc r | dec r | ineg r | fneg r | not r | iread r | uread r | fread r | iprint r | uprint r | fprint r
  | call addr =>
    obtain rfl := h
    simp [decode, hop, Instr.opcode]

/-- R95: what `decode` answers, whole: the opcode selects the instruction, and its operands stand in the fields it names. -/
theorem decode_eq_ok_iff : decode w = .ok i ↔ opField w = i.opcode ∧ HasOperands w i :=
  ⟨fun h => ⟨opField_of_decode h, hasOperands_of_decode h⟩, fun ⟨hop, h⟩ => decode_of_hasOperands hop h⟩

/-- R92, R95: a Word that is no instruction is one by its opcode. -/
theorem error_of_decode {e : DecodeError} (h : decode w = .error e) : e = .reservedOpcode (opField w) := by
  unfold decode at h
  split at h <;> cases h
  rfl

/-- R87, R92: from 56 on the opcode is no instruction's. -/
theorem decode_of_reserved (h : 56 ≤ (opField w).toNat) : decode w = .error (.reservedOpcode (opField w)) := by
  cases hd : decode w with
  | ok i =>
    rw [opField_of_decode hd] at h
    have hle := opcode_le i
    omega
  | error e => rw [error_of_decode hd]

/-- R90: Words with the same opcode decode alike when the second has every operand that the first has. -/
theorem decode_congr (hop : opField w = opField v) (h : ∀ i, i.opcode = opField w → HasOperands w i → HasOperands v i) :
    decode w = decode v := by
  cases hw : decode w with
  | ok i =>
    obtain ⟨hiop, hi⟩ := decode_eq_ok_iff.mp hw
    rw [decode_of_hasOperands (hop.symm.trans hiop) (h i hiop.symm hi)]
  | error e =>
    obtain rfl := error_of_decode hw
    rw [decode_of_reserved (hop ▸ reserved_of_decode hw), hop]

/-! The fields of an instruction's own Word. -/

theorem opField_encode (i : Instr) : opField (encode i) = i.opcode := by
  cases i <;> simp [encode, Instr.opcode]

theorem hasTarget_formatJ (op : Slot) (h : t.wellFormed = true) : HasTarget (formatJ op t) t := by
  cases t with
  | abs addr | ind addr | rel off => simp [formatJ, HasTarget]
  | sum ra rb => simp [formatJ, HasTarget]
  | illegal mode => exact ⟨s1_formatB op mode 0, of_decide_eq_true h⟩

theorem hasOperands_encode (h : i.wellFormed = true) : HasOperands (encode i) i := by
  cases i with
  | jmp t | ije t | ijg t | ijl t | ijne t | ijge t | ijle t
  | uje t | ujg t | ujl t | ujne t | ujge t | ujle t
  | fje t | fjg t | fjl t | fjne t | fjge t | fjle t => exact hasTarget_formatJ _ h
  | _ => simp [encode, HasOperands]

/-! Bits that a Word has only where another has them. -/

/-- Every 1 bit of `x` is a 1 bit of `y`. -/
def BitsWithin {n : Nat} (x y : BitVec n) : Prop := x &&& ~~~ y = 0

section bits
variable {n m : Nat}

theorem bitsWithin_self (x : BitVec n) : BitsWithin x x := BitVec.and_not_self x

theorem bitsWithin_zero (y : BitVec n) : BitsWithin 0 y := BitVec.zero_and

theorem bitsWithin_append {x x' : BitVec n} {y y' : BitVec m} (hx : BitsWithin x x') (hy : BitsWithin y y') :
    BitsWithin (x ++ y) (x' ++ y') := by
  unfold BitsWithin at *
  rw [BitVec.not_append, BitVec.and_append, hx, hy]
  exact BitVec.zero_append_zero

end bits

section
variable {op f1 f2 f3 : Slot} (hop : opField w = op)
include hop

theorem formatA_bitsWithin (h1 : BitsWithin f1 (s1 w)) (h2 : BitsWithin f2 (s2 w)) (h3 : BitsWithin f3 (s3 w)) :
    BitsWithin (formatA op f1 f2 f3) w := by
  have hfields : BitsWithin (formatA op f1 f2 f3) (formatA (opField w) (s1 w) (s2 w) (s3 w)) :=
    bitsWithin_append (bitsWithin_append (bitsWithin_append h3 h2) h1) (hop ▸ bitsWithin_self _)
  rwa [formatA_fields] at hfields

theorem formatB_bitsWithin {a : Half} (h1 : BitsWithin f1 (s1 w)) (h2 : BitsWithin a (a16 w)) :
    BitsWithin (formatB op f1 a) w := by
  have hfields : BitsWithin (formatB op f1 a) (formatB (opField w) (s1 w) (a16 w)) :=
    bitsWithin_append (bitsWithin_append h2 h1) (hop ▸ bitsWithin_self _)
  rwa [formatB_fields] at hfields

theorem formatJ_bitsWithin (h : HasTarget w t) : BitsWithin (formatJ op t) w := by
  cases t with
  | abs addr | ind addr | rel off =>
    obtain ⟨hmode, rfl⟩ := h
    exact formatB_bitsWithin hop (hmode ▸ bitsWithin_self _) (bitsWithin_self _)
  | sum ra rb =>
    obtain ⟨hmode, rfl, rfl⟩ := h
    exact formatA_bitsWithin hop (hmode ▸ bitsWithin_self _) (bitsWithin_self _) (bitsWithin_self _)
  | illegal mode =>
    obtain ⟨rfl, -⟩ := h
    exact formatB_bitsWithin hop (bitsWithin_self _) (bitsWithin_zero _)

end

/-- R89, R90: an instruction's own Word has the bits of the fields it names, and 0 elsewhere. -/
theorem encode_bitsWithin (hop : opField w = i.opcode) (h : HasOperands w i) : BitsWithin (encode i) w := by
  cases i with
  | halt | ret => exact formatA_bitsWithin hop (bitsWithin_zero _) (bitsWithin_zero _) (bitsWithin_zero _)
  | jmp t | ije t | ijg t | ijl t | ijne t | ijge t | ijle t
  | uje t | ujg t | ujl t | ujne t | ujge t | ujle t
  | fje t | fjg t | fjl t | fjne t | fjge t | fjle t => exact formatJ_bitsWithin hop h
  | lda r k | getf r k | setf r k =>
    obtain ⟨rfl, rfl⟩ := h
    exact formatB_bitsWithin hop (bitsWithin_self _) (bitsWithin_self _)
  | mov d s | ldp d s =>
    obtain ⟨rfl, rfl⟩ := h
    exact formatA_bitsWithin hop (bitsWithin_self _) (bitsWithin_self _) (bitsWithin_zero _)
  | iadd d a b | isub d a b | fadd d a b | fsub d a b | imul d a b | umul d a b | fmul d a b
  | idiv d a b | udiv d a b | fdiv d a b | imod d a b | umod d a b | and d a b | or d a b | xor d a b =>
    obtain ⟨rfl, rfl, rfl⟩ := h
    exact formatA_bitsWithin hop (bitsWithin_self _) (bitsWithin_self _) (bitsWithin_self _)
  | inc r | dec r | ineg r | fneg r | not r | iread r | uread r | fread r | iprint r | uprint r | fprint r =>
    obtain rfl := h
    exact formatA_bitsWithin hop (bitsWithin_zero _) (bitsWithin_zero _) (bitsWithin_self _)
  | icmp a b | ucmp a b | fcmp a b =>
    obtain ⟨rfl, rfl⟩ := h
    exact formatA_bitsWithin hop (bitsWithin_zero _) (bitsWithin_self _) (bitsWithin_self _)
  | call addr =>
    obtain rfl := h
    exact formatB_bitsWithin hop (bitsWithin_zero _) (bitsWithin_self _)

/-! Which fields the instructions of a row name (R90). -/

theorem hasOperands_of_noOperand (hi : i.opcode.toNat = 0 ∨ i.opcode.toNat = 55) : HasOperands v i := by
  cases i with
  | halt | ret => trivial
  | _ => simp [Instr.opcode] at hi

theorem hasOperands_of_s3 (hi : i.opcode.toNat ∈ [35, 36, 37, 38, 45, 48, 49, 50, 51, 52, 53]) (h3 : s3 w = s3 v)
    (h : HasOperands w i) : HasOperands v i := by
  cases i with
  | inc r | dec r | ineg r | fneg r | not r | iread r | uread r | fread r | iprint r | uprint r | fprint r =>
    exact h3.symm.trans h
  | _ => simp [Instr.opcode] at hi

theorem hasOperands_of_s2_s3 (hi : i.opcode.toNat ∈ [39, 40, 41]) (h2 : s2 w = s2 v) (h3 : s3 w = s3 v)
    (h : HasOperands w i) : HasOperands v i := by
  cases i with
  | icmp a b | ucmp a b | fcmp a b => exact h.imp h2.symm.trans h3.symm.trans
  | _ => simp [Instr.opcode] at hi

theorem hasOperands_of_s1_s2 (hi : i.opcode.toNat ∈ [21, 22]) (h1 : s1 w = s1 v) (h2 : s2 w = s2 v)
    (h : HasOperands w i) : HasOperands v i := by
  cases i with
  | mov d s | ldp d s => exact h.imp h1.symm.trans h2.symm.trans
  | _ => simp [Instr.opcode] at hi

theorem hasOperands_of_a16 (hi : i.opcode.toNat = 54) (ha : a16 w = a16 v) (h : HasOperands w i) : HasOperands v i := by
  cases i with
  | call addr => exact ha.symm.trans h
  | _ => simp [Instr.opcode] at hi

/-- R199: of an illegal mode's Word the mode alone is read. -/
theorem hasTarget_of_illegalMode (hmode : 3 < (s1 w).toNat) (h1 : s1 w = s1 v) (h : HasTarget w t) : HasTarget v t := by
  cases t with
  | illegal mode => exact h.imp_left h1.symm.trans
  | _ =>
    obtain ⟨hlegal, -⟩ := h
    simp [hlegal] at hmode

theorem hasOperands_of_illegalMode (hlo : 1 ≤ i.opcode.toNat) (hhi : i.opcode.toNat ≤ 19) (hmode : 3 < (s1 w).toNat)
    (h1 : s1 w = s1 v) (h : HasOperands w i) : HasOperands v i := by
  cases i with
  | jmp t | ije t | ijg t | ijl t | ijne t | ijge t | ijle t
  | uje t | ujg t | ujl t | ujne t | ujge t | ujle t
  | fje t | fjg t | fjl t | fjne t | fjge t | fjle t => exact hasTarget_of_illegalMode hmode h1 h
  | _ => simp [Instr.opcode] at hlo hhi

/-! The step at an instruction's Word. -/

/-- R110 to R112 -/
theorem step_of_decode {s : State} (hrun : s.run = .running) (hpc : wordInRange s.pc)
    (h : decode (s.word s.pc) = .ok i) : step s = exec i s := by
  rw [step, hrun, cycle, fetchDecode_instr_iff.mpr ⟨hpc, h⟩]

/-- R91 -/
theorem decode_halt (h : w.toNat % 256 = 0) : decode w = .ok .halt :=
  decode_of_hasOperands (BitVec.eq_of_toNat_eq ((opField_toNat w).trans h)) trivial

/-- R113 -/
theorem exec_halt (s : State) : exec .halt s = .next (s.setRun .halted) := rfl

theorem decode_encode (h : i.wellFormed = true) : decode (encode i) = .ok i :=
  decode_of_hasOperands (opField_encode i) (hasOperands_encode h)

end

/-! The obligations. -/

/-- Settles O4: the instruction's own Word has its opcode, and its operands in the fields it names. -/
theorem decodeEncodeAgree : Obligations.DecodeEncodeAgree :=
  fun _ => decode_encode

/-- Settles O5, from the fields that the Word of a decoded instruction is known to have. -/
theorem decodeNormalForm : Obligations.DecodeNormalForm := by
  intro w i h
  obtain ⟨hop, hfields⟩ := decode_eq_ok_iff.mp h
  have hwf := wellFormed_of_decode h
  exact ⟨hwf, hop.symm, hop ▸ opcode_le i, decode_encode hwf, encode_bitsWithin hop hfields⟩

/-- Settles O6, row by row: the fields in which the Words agree are all that the instruction names. -/
theorem unusedFieldsIgnored : Obligations.UnusedFieldsIgnored := by
  intro w v hop
  exact ⟨fun hrow => decode_congr hop fun i hi _ => hasOperands_of_noOperand (hi ▸ hrow),
    fun hrow h3 => decode_congr hop fun i hi => hasOperands_of_s3 (hi ▸ hrow) h3,
    fun hrow h2 h3 => decode_congr hop fun i hi => hasOperands_of_s2_s3 (hi ▸ hrow) h2 h3,
    fun hrow h1 h2 => decode_congr hop fun i hi => hasOperands_of_s1_s2 (hi ▸ hrow) h1 h2,
    fun hrow ha => decode_congr hop fun i hi => hasOperands_of_a16 (hi ▸ hrow) ha,
    fun hlo hhi hmode h1 => decode_congr hop fun i hi =>
      hasOperands_of_illegalMode (hi ▸ hlo) (hi ▸ hhi) hmode h1⟩

/-- Settles O11: a zero low byte is the opcode of `HALT`, whose meaning writes `RUN` alone. -/
theorem haltOnZeroOpcode : Obligations.HaltOnZeroOpcode :=
  ⟨fun _ => decode_halt, exec_halt, fun s hrun hpc h => (step_of_decode hrun hpc (decode_halt h)).trans (exec_halt s)⟩

end Sys2Proof.Proofs
end

section
/-! The family of 40_dispatch.md: what `step` answers in every state. A stopped core has no step (R110); the fetch answers a
fault or an instruction (R111, R112, R115); the instruction has a next state but for a read that waits (R117, R263); and a step
that ends in a fault has changed `RUN` alone (R116). -/

namespace Sys2Proof.Proofs

open Sys2Proof.Machine Sys2Proof.Claims

variable {s t : State} {i : Instr} {r : Reg}

/-! The branches of the step, beside the instruction's own (`step_of_decode`). -/

/-- R110: from `halted` and `faulted` there is no step. -/
theorem step_of_not_running (h : s.run ≠ .running) : ∃ f, step s = .fault f := by
  unfold step
  cases hrun : s.run with
  | running => exact absurd hrun h
  | halted => exact ⟨.coreHalted, rfl⟩
  | faulted c info => exact ⟨.coreFaulted c info, rfl⟩

/-- R111 -/
theorem step_of_fetchBounds (hrun : s.run = .running) (hpc : ¬ wordInRange s.pc) :
    step s = .next (s.takeFault .fetchBounds s.pc) := by
  simp only [step, hrun, cycle, fetchDecode_outOfRange hpc, raise_eq]

/-- R115 -/
theorem step_of_reserved {op : Slot} (hrun : s.run = .running) (hpc : wordInRange s.pc)
    (h : decode (s.word s.pc) = .error (.reservedOpcode op)) :
    step s = .next (s.takeFault .illegalOpcode (op.setWidth 16)) := by
  have hfetch : fetchDecode s = .reserved op := by rw [fetchDecode_inRange hpc, h]
  simp only [step, hrun, cycle, hfetch, raise_eq]

/-! Which instructions have a next state: each shape, and of the reads those that do not wait. -/

/-- The outcome is a next state. -/
def HasNext (o : Result) : Prop := ∃ t, o = .next t

theorem hasNext_next (t : State) : HasNext (.next t) := ⟨t, rfl⟩

section shapes
variable (s)

theorem withVal_hasNext (r : Reg) {k : Word → Result} (hk : ∀ w, HasNext (k w)) : HasNext (withVal s r k) := by
  by_cases hr : wordInRange (s.reg r)
  · rw [withVal_inRange hr]
    exact hk _
  · rw [withVal_outOfRange hr]
    exact hasNext_next _

theorem withDest_hasNext (r : Reg) {k : Result} (hk : wordInRange (s.reg r) → HasNext k) : HasNext (withDest s r k) := by
  by_cases hr : wordInRange (s.reg r)
  · rw [withDest_inRange hr]
    exact hk hr
  · rw [withDest_outOfRange hr]
    exact hasNext_next _

theorem withFlagIndex_hasNext (k : Half) {o : Result} (ho : HasNext o) : HasNext (withFlagIndex s k o) := by
  by_cases hk : k.toNat ≤ 15
  · rwa [withFlagIndex_legal hk]
  · rw [withFlagIndex_illegal hk]
    exact hasNext_next _

theorem binaryOp_hasNext (f : Word → Word → Half → Word × Half) (d a b : Reg) : HasNext (binaryOp f d a b s) :=
  withVal_hasNext s a fun _ => withVal_hasNext s b fun _ => withDest_hasNext s d fun _ => hasNext_next _

theorem unaryOp_hasNext (f : Word → Half → Word × Half) (r : Reg) : HasNext (unaryOp f r s) :=
  withVal_hasNext s r fun _ => hasNext_next _

theorem compareOp_hasNext (f : Word → Word → Half → Half) (a b : Reg) : HasNext (compareOp f a b s) :=
  withVal_hasNext s a fun _ => withVal_hasNext s b fun _ => hasNext_next _

theorem consolePrint_hasNext (k : Kind) (r : Reg) : HasNext (consolePrint k r s) :=
  withVal_hasNext s r fun _ => hasNext_next _

/-- R194: only the indirect mode reads memory, and there an address out of range is a fault. -/
theorem jumpTo_hasNext (g : Target) : HasNext (jumpTo g s) := by
  cases g with
  | ind addr =>
    by_cases haddr : wordInRange addr
    · simp only [jumpTo, withTarget, memRead_of_inRange _ haddr]
      exact hasNext_next _
    · simp only [jumpTo, withTarget, memRead_of_not_inRange _ haddr, raise_eq]
      exact hasNext_next _
  | _ => exact hasNext_next _

theorem jumpIf_hasNext (c : Bool) (g : Target) : HasNext (jumpIf c g s) := by
  cases c with
  | true => exact jumpTo_hasNext s g
  | false => exact hasNext_next _

end shapes

/-- R262: past its destination check a read takes the first token, `ok` or `bad`. -/
theorem consoleRead_hasNext (h : wordInRange (s.reg r) → s.input ≠ []) : HasNext (consoleRead r s) := by
  refine withDest_hasNext s r fun hr => ?_
  cases hin : s.input with
  | nil => exact absurd hin (h hr)
  | cons token rest => cases token <;> exact hasNext_next _

theorem exec_hasNext_of_noRead (s : State) (h : readKind i = none) : HasNext (exec i s) := by
  cases i with
  | halt | lda _ _ | call _ | ret => exact hasNext_next _
  | jmp g => exact jumpTo_hasNext s g
  | ije g | ijg g | ijl g | ijne g | ijge g | ijle g => exact jumpIf_hasNext s _ g
  | uje g | ujg g | ujl g | ujne g | ujge g | ujle g => exact jumpIf_hasNext s _ g
  | fje g | fjg g | fjl g | fjne g | fjge g | fjle g => exact jumpIf_hasNext s _ g
  | mov d src => exact withVal_hasNext s src fun _ => withDest_hasNext s d fun _ => hasNext_next _
  | ldp d src => exact withVal_hasNext s src fun _ => hasNext_next _
  | iadd d a b | isub d a b | imul d a b | umul d a b => exact binaryOp_hasNext s _ d a b
  | idiv d a b | udiv d a b | imod d a b | umod d a b => exact binaryOp_hasNext s _ d a b
  | fadd d a b | fsub d a b | fmul d a b | fdiv d a b => exact binaryOp_hasNext s _ d a b
  | and d a b | or d a b | xor d a b => exact binaryOp_hasNext s _ d a b
  | inc r | dec r | ineg r | fneg r | not r => exact unaryOp_hasNext s _ r
  | icmp a b | ucmp a b | fcmp a b => exact compareOp_hasNext s _ a b
  | getf r k => exact withFlagIndex_hasNext s k (withDest_hasNext s r fun _ => hasNext_next _)
  | setf r k => exact withFlagIndex_hasNext s k (withVal_hasNext s r fun _ => hasNext_next _)
  | iprint r | uprint r | fprint r => exact consolePrint_hasNext s _ r
  | iread r | uread r | fread r => cases h

/-- R264 to R266: the reads differ in the kind they ask for, not in what the core does. -/
theorem exec_of_readKind {k : Kind} (s : State) (h : readKind i = some (k, r)) : exec i s = consoleRead r s := by
  obtain ⟨rfl, -⟩ | ⟨rfl, -⟩ | ⟨rfl, -⟩ := readKind_eq_some.mp h <;> rfl

/-- Only a read past its destination check needs a token. -/
theorem exec_hasNext (h : ∀ k r, readKind i = some (k, r) → wordInRange (s.reg r) → s.input ≠ []) :
    HasNext (exec i s) := by
  cases hi : readKind i with
  | none => exact exec_hasNext_of_noRead s hi
  | some kr =>
    obtain ⟨k, r⟩ := kr
    rw [exec_of_readKind s hi]
    exact consoleRead_hasNext (h k r hi)

/-! Waiting (R117, R263), and which states have a step. -/

theorem exists_readKind_iff : (∃ k, readKind i = some (k, r)) ↔ i = .iread r ∨ i = .uread r ∨ i = .fread r := by
  simp [readKind_eq_some, exists_or]

/-- What the statements call waiting is what the console port shows as blocked. -/
theorem blocked_iff_waits (hrun : s.run = .running) : s.blocked = true ↔ Waits s := by
  rw [State.blocked_iff hrun]
  constructor
  · rintro ⟨hpc, hin, i, k, r, hd, hk, hr⟩
    exact ⟨hpc, hin, i, r, hd, exists_readKind_iff.mp ⟨k, hk⟩, hr⟩
  · rintro ⟨hpc, hin, i, r, hd, hi, hr⟩
    obtain ⟨k, hk⟩ := exists_readKind_iff.mpr hi
    exact ⟨hpc, hin, i, k, r, hd, hk, hr⟩

theorem enabled_iff : s.enabled = true ↔ s.run = .running ∧ ¬ Waits s := by
  rw [State.enabled, Bool.and_eq_true, decide_eq_true_eq, Bool.not_eq_true', ← Bool.not_eq_true]
  exact and_congr_right fun hrun => not_congr (blocked_iff_waits hrun)

/-- R117, R263 -/
theorem step_of_waits (hrun : s.run = .running) (h : Waits s) : step s = .fault .coreBlocked := by
  obtain ⟨hpc, hin, i, r, hd, hi, hr⟩ := h
  obtain ⟨k, hk⟩ := exists_readKind_iff.mpr hi
  rw [step_of_decode hrun hpc hd, exec_of_readKind s hk, consoleRead_blocked hr hin]

/-- R110, over the three things the fetch can find. -/
theorem step_hasNext (hrun : s.run = .running) (h : ¬ Waits s) : HasNext (step s) := by
  by_cases hpc : wordInRange s.pc
  · cases hd : decode (s.word s.pc) with
    | ok i =>
      rw [step_of_decode hrun hpc hd]
      exact exec_hasNext fun k r hk hr hin => h ⟨hpc, hin, i, r, hd, exists_readKind_iff.mp ⟨k, hk⟩, hr⟩
    | error e =>
      obtain ⟨op⟩ := e
      rw [step_of_reserved hrun hpc hd]
      exact hasNext_next _
  · rw [step_of_fetchBounds hrun hpc]
    exact hasNext_next _

theorem step_hasNext_iff : HasNext (step s) ↔ s.run = .running ∧ ¬ Waits s := by
  constructor
  · rintro ⟨t, h⟩
    obtain ⟨hrun, -⟩ := step_cases h
    refine ⟨hrun, fun hwaits => ?_⟩
    rw [step_of_waits hrun hwaits] at h
    cases h
  · rintro ⟨hrun, hwaits⟩
    exact step_hasNext hrun hwaits

theorem not_waits_appendInput {ts : List Token} (hts : ts ≠ []) : ¬ Waits (s.appendInput ts) := by
  rintro ⟨-, hin, -⟩
  exact hts (List.append_eq_nil_iff.mp hin).2

/-! A step that ends in a fault (R116). -/

section faults
variable {c : Cause} {info : Half}

/-- Of the effects of an instruction on a running core only the fault leaves it faulted. -/
theorem Effect.eq_takeFault (e : Effect s i t) (hrun : s.run = .running) (ht : t.run = .faulted c info) :
    t = s.takeFault c info := by
  cases e with
  | fault c' info' =>
    cases ht
    rfl
  | halt => cases ht
  | _ => cases hrun.symm.trans ht

theorem eq_takeFault_of_step (h : step s = .next t) (ht : t.run = .faulted c info) : t = s.takeFault c info := by
  obtain ⟨hrun, ⟨-, rfl⟩ | ⟨op, -, -, rfl⟩ | ⟨i, -, -, hexec⟩⟩ := step_cases h
  · cases ht
    rfl
  · cases ht
    rfl
  · exact (exec_effect hexec).eq_takeFault hrun ht

/-- R33 -/
theorem takeFault_faultRecord : (s.takeFault c info).faultRecord = some (c, info, s.pc) := rfl

end faults

/-! The obligations. -/

/-- Settles O12: `HasNext` and its negation, clause by clause. -/
theorem stoppedCoreHasNoStep : Obligations.StoppedCoreHasNoStep :=
  ⟨fun _ => step_of_not_running, fun _ => step_of_waits, fun _ => step_hasNext,
    fun _ _ hrun _ hts => step_hasNext hrun (not_waits_appendInput hts),
    fun _ => enabled_iff.trans step_hasNext_iff.symm⟩

/-- Settles O55: the faulted state is `takeFault` of the old one, which writes `RUN` alone. -/
theorem faultsArePrecise : Obligations.FaultsArePrecise := by
  intro s t c info h ht
  obtain rfl := eq_takeFault_of_step h ht
  exact ⟨rfl, takeFault_faultRecord⟩

/-- Settles O8. -/
theorem stepRunsDecodedInstruction : Obligations.StepRunsDecodedInstruction :=
  fun _ _ => step_of_decode

/-- Settles O9: the number that the two cells make is the Word that the fetch reads. -/
theorem fetchWordOrFault : Obligations.FetchWordOrFault := by
  refine ⟨fun s hrun hpc => step_of_fetchBounds hrun (by omega), fun s i hrun hpc hd => ?_⟩
  rw [← word_toNat, BitVec.ofNat_toNat, BitVec.setWidth_eq] at hd
  exact step_of_decode hrun hpc hd

/-- Settles O10: the low byte is the opcode, and from 56 on it is reserved. -/
theorem reservedOpcodeFaults : Obligations.ReservedOpcodeFaults := by
  intro s hrun hpc h
  rw [← opField_toNat] at h ⊢
  rw [step_of_reserved hrun hpc (decode_of_reserved h), BitVec.ofNat_toNat]
  rfl

end Sys2Proof.Proofs
end

section
/-! The family of 41_data_movement.md: `LDA`, `MOV`, `LDP` (R130 to R133). First what the statements of every family ask of an
instruction: its encoding (R81, R82), a result that is stored (R140), a register that is loaded. -/

namespace Sys2Proof.Proofs

open Sys2Proof.Machine Sys2Proof.Claims

/-! The Words that the statements write as numbers. -/

section encodings
variable {op : Nat} (hop : op < 256)
include hop

theorem wordA_eq_formatA (f1 f2 f3 : Slot) : wordA op f1 f2 f3 = formatA (BitVec.ofNat 8 op) f1 f2 f3 := by
  apply BitVec.eq_of_toNat_eq
  rw [wordA, formatA_toNat, BitVec.toNat_ofNat, BitVec.toNat_ofNat]
  omega

theorem wordB_eq_formatB (f1 : Slot) (v : Half) : wordB op f1 v = formatB (BitVec.ofNat 8 op) f1 v := by
  apply BitVec.eq_of_toNat_eq
  rw [wordB, formatB_toNat, BitVec.toNat_ofNat, BitVec.toNat_ofNat]
  omega

theorem encodesA_of_hasOperands {i : Slot → Slot → Slot → Instr}
    (hcode : ∀ f1 f2 f3, (i f1 f2 f3).opcode = BitVec.ofNat 8 op)
    (h : ∀ f1 f2 f3, HasOperands (formatA (BitVec.ofNat 8 op) f1 f2 f3) (i f1 f2 f3)) : EncodesA op i := by
  intro f1 f2 f3
  rw [wordA_eq_formatA hop]
  exact decode_of_hasOperands ((opField_formatA _ _ _ _).trans (hcode f1 f2 f3).symm) (h f1 f2 f3)

theorem encodesB_of_hasOperands {i : Slot → Half → Instr} (hcode : ∀ f1 v, (i f1 v).opcode = BitVec.ofNat 8 op)
    (h : ∀ f1 v, HasOperands (formatB (BitVec.ofNat 8 op) f1 v) (i f1 v)) : EncodesB op i := by
  intro f1 v
  rw [wordB_eq_formatB hop]
  exact decode_of_hasOperands ((opField_formatB _ _ _).trans (hcode f1 v).symm) (h f1 v)

end encodings

/-! What the state updates leave, in the words of the statements. -/

section updates
variable {s t : State}

theorem flagsBecome_nil (h : t.flags = s.flags) : FlagsBecome s t [] :=
  ⟨fun _ hp => absurd hp List.not_mem_nil, fun _ _ => by rw [h]⟩

/-- R51, R53: what O2 says of a Word write, in the words of the instruction statements. -/
theorem storesWord_of_mem {a : Half} {w : Word} (hwf : s.mem.wf = true) (ha : wordInRange a)
    (hmem : t.mem = s.mem.setWord a w) : StoresWord s t a w := by
  obtain ⟨-, -, hwrite, -⟩ := memWriteReadsBack
  obtain ⟨m, hm, -, -, hlow, hhigh, hother⟩ := hwrite s.mem a w hwf ha
  obtain rfl : t.mem = m := hmem.trans (Option.some.inj ((memWrite_of_inRange s.mem w ha).symm.trans hm))
  exact ⟨hlow, hhigh, hother⟩

/-- R140: a result stored with the flag register `f`, whatever flags `f` sets. -/
theorem resultStored_setVal {d : Reg} {f : Half} {fl : List (Nat × Bool)} (w : Word) (hwf : s.mem.wf = true)
    (hd : wordInRange (s.reg d)) (hf : FlagsBecome s (s.setFlags f) fl) :
    ResultStored s (((s.setFlags f).setVal d w).advance) d w fl :=
  ⟨storesWord_of_mem hwf hd rfl, hf, fun _ => rfl, ⟨rfl, rfl, rfl, rfl⟩, rfl⟩

/-- R9, R114: beside the register named, an instruction that loads a register changes `pc` alone. -/
theorem setReg_advance_frame (s : State) (r : Reg) (v : Half) :
    (∀ j, j ≠ r → ((s.setReg r v).advance).reg j = s.reg j) ∧ MemorySame s (s.setReg r v).advance ∧
      FlagsBecome s (s.setReg r v).advance [] ∧ RestSame s (s.setReg r v).advance ∧
      ((s.setReg r v).advance).pc = s.pc + 2 := by
  refine ⟨fun j hj => ?_, fun _ => rfl, flagsBecome_nil rfl, ⟨rfl, rfl, rfl, rfl⟩, rfl⟩
  rw [State.advance_reg, State.setReg_reg, if_neg hj]

end updates

/-! The meaning of the three instructions, each outcome of the checks once. -/

section meanings
variable {s : State} {d src : Reg}

/-- R131 -/
theorem exec_lda (s : State) (r : Reg) (addr : Half) : exec (.lda r addr) s = .next (s.setReg r addr).advance := rfl

theorem exec_mov (s : State) (d src : Reg) :
    exec (.mov d src) s = withVal s src fun w => withDest s d (.next (s.setVal d w).advance) := rfl

theorem exec_ldp (s : State) (d src : Reg) :
    exec (.ldp d src) s = withVal s src fun w => .next (s.setReg d (lo w)).advance := rfl

/-- R132: the source Word is read whole before the write (R64). -/
theorem exec_mov_inRange (hs : wordInRange (s.reg src)) (hd : wordInRange (s.reg d)) :
    exec (.mov d src) s = .next (s.setVal d (s.val src)).advance := by
  rw [exec_mov, withVal_inRange hs, withDest_inRange hd]

theorem raises_mov_source (d : Reg) (hs : ¬ wordInRange (s.reg src)) :
    Raises (.mov d src) s .memBounds (s.reg src) :=
  (exec_mov s d src).trans (withVal_outOfRange hs _)

theorem raises_mov_dest (hs : wordInRange (s.reg src)) (hd : ¬ wordInRange (s.reg d)) :
    Raises (.mov d src) s .memBounds (s.reg d) := by
  rw [Raises, exec_mov, withVal_inRange hs, withDest_outOfRange hd]
  rfl

/-- R133: the register takes the low half. -/
theorem exec_ldp_inRange (d : Reg) (hs : wordInRange (s.reg src)) :
    exec (.ldp d src) s = .next (s.setReg d (lo (s.val src))).advance := by
  rw [exec_ldp, withVal_inRange hs]

theorem raises_ldp (d : Reg) (hs : ¬ wordInRange (s.reg src)) : Raises (.ldp d src) s .memBounds (s.reg src) :=
  (exec_ldp s d src).trans (withVal_outOfRange hs _)

end meanings

/-! The obligations. -/

/-- Settles O14: the Word read is a result stored with the flag register as it was. -/
theorem movCopiesWord : Obligations.MovCopiesWord := by
  refine ⟨encodesA_of_hasOperands (by decide) (fun _ _ _ => rfl) fun _ _ _ => ⟨s1_formatA _ _ _ _, s2_formatA _ _ _ _⟩,
    fun _ d _ => raises_mov_source d, fun _ _ _ => raises_mov_dest, fun s d src hwf hs hd => ?_⟩
  have hflags : FlagsBecome s (s.setFlags s.flags) [] := flagsBecome_nil rfl
  exact ⟨_, exec_mov_inRange hs hd, resultStored_setVal (s.val src) hwf hd hflags⟩

/-- Settles O15: the register loaded is the one that reads otherwise, also where it gave the address. -/
theorem ldpLoadsPointer : Obligations.LdpLoadsPointer := by
  refine ⟨encodesA_of_hasOperands (by decide) (fun _ _ _ => rfl) fun _ _ _ => ⟨s1_formatA _ _ _ _, s2_formatA _ _ _ _⟩,
    fun _ d _ => raises_ldp d, fun s d src hs => ⟨_, exec_ldp_inRange d hs, ?_, setReg_advance_frame s d _⟩⟩
  rw [State.advance_reg, State.setReg_reg_self, lo_toNat]

/-- Settles O13. -/
theorem ldaLoadsAddress : Obligations.LdaLoadsAddress :=
  ⟨encodesB_of_hasOperands (by decide) (fun _ _ => rfl) fun _ _ => ⟨s1_formatB _ _ _, a16_formatB _ _ _⟩,
    fun s r addr => ⟨_, exec_lda s r addr, State.setReg_reg_self s r addr, setReg_advance_frame s r addr⟩⟩

end Sys2Proof.Proofs
end

section
/-! The family of 42_integer_arithmetic.md: the integer result flags (R141), the wide operations (R142 to R146, R152, R153), division
and remainder (R147 to R151) and negation (R154). First the two shapes of R140, in the words of the statements, for any ALU function. -/

namespace Sys2Proof.Proofs

open Sys2Proof.Machine Sys2Proof.Claims

/-! The shapes of R140, each outcome of the checks once. -/

section shapes
variable {s : State} {f : Word → Word → Half → Word × Half} {g : Word → Half → Word × Half} {d a b r : Reg}

theorem binaryOp_inRange (ha : wordInRange (s.reg a)) (hb : wordInRange (s.reg b)) (hd : wordInRange (s.reg d)) :
    binaryOp f d a b s =
      .next (((s.setFlags (f (s.val a) (s.val b) s.flags).2).setVal d (f (s.val a) (s.val b) s.flags).1).advance) := by
  rw [binaryOp, withVal_inRange ha, withVal_inRange hb, withDest_inRange hd]

theorem binaryOp_firstSource (ha : ¬ wordInRange (s.reg a)) :
    binaryOp f d a b s = .next (s.takeFault .memBounds (s.reg a)) := by
  rw [binaryOp, withVal_outOfRange ha]

theorem binaryOp_secondSource (ha : wordInRange (s.reg a)) (hb : ¬ wordInRange (s.reg b)) :
    binaryOp f d a b s = .next (s.takeFault .memBounds (s.reg b)) := by
  rw [binaryOp, withVal_inRange ha, withVal_outOfRange hb]

theorem binaryOp_dest (ha : wordInRange (s.reg a)) (hb : wordInRange (s.reg b)) (hd : ¬ wordInRange (s.reg d)) :
    binaryOp f d a b s = .next (s.takeFault .memBounds (s.reg d)) := by
  rw [binaryOp, withVal_inRange ha, withVal_inRange hb, withDest_outOfRange hd]

theorem unaryOp_inRange (hr : wordInRange (s.reg r)) :
    unaryOp g r s = .next (((s.setFlags (g (s.val r) s.flags).2).setVal r (g (s.val r) s.flags).1).advance) := by
  rw [unaryOp, withVal_inRange hr]

theorem unaryOp_outOfRange (hr : ¬ wordInRange (s.reg r)) :
    unaryOp g r s = .next (s.takeFault .memBounds (s.reg r)) := by
  rw [unaryOp, withVal_outOfRange hr]

end shapes

/-- The ALU function `f` answers, whatever the flags before it, a result that `rel` allows and the flags `fl` of that result. -/
def BinaryAlu (f : Word → Word → Half → Word × Half) (rel : Word → Word → Word → Prop)
    (fl : Word → Word → Word → List (Nat × Bool)) : Prop :=
  ∀ (s : State) (wa wb : Word), rel wa wb (f wa wb s.flags).1 ∧
    FlagsBecome s (s.setFlags (f wa wb s.flags).2) (fl wa wb (f wa wb s.flags).1)

/-- As `BinaryAlu`, with one operand. -/
def UnaryAlu (g : Word → Half → Word × Half) (rel : Word → Word → Prop) (fl : Word → Word → List (Nat × Bool)) : Prop :=
  ∀ (s : State) (wa : Word), rel wa (g wa s.flags).1 ∧ FlagsBecome s (s.setFlags (g wa s.flags).2) (fl wa (g wa s.flags).1)

/-- R140: a three-register instruction is its row of the encoding (R81, R87) and its ALU function. That the row and the dispatcher
name `i` and `f` is read off their definitions at each use. -/
theorem threeRegister_of_binaryAlu {op : Nat} {i : Reg → Reg → Reg → Instr} {rel : Word → Word → Word → Prop}
    {fl : Word → Word → Word → List (Nat × Bool)} (f : Word → Word → Half → Word × Half) (halu : BinaryAlu f rel fl)
    (hexec : ∀ d a b s, exec (i d a b) s = binaryOp f d a b s := by intros; rfl) (hop : op < 256 := by decide)
    (hcode : ∀ d a b, (i d a b).opcode = BitVec.ofNat 8 op := by intros; rfl)
    (hslots : ∀ w d a b, HasOperands w (i d a b) ↔ s1 w = d ∧ s2 w = a ∧ s3 w = b := by intros; rfl) :
    ThreeRegister op i rel fl := by
  refine ⟨encodesA_of_hasOperands hop hcode fun f1 f2 f3 => ?_, fun s d a b ha => ?_, fun s d a b ha hb => ?_,
    fun s d a b ha hb hd => ?_, fun s d a b hwf ha hb hd => ?_⟩
  · exact (hslots _ f1 f2 f3).mpr ⟨s1_formatA _ f1 f2 f3, s2_formatA _ f1 f2 f3, s3_formatA _ f1 f2 f3⟩
  · exact (hexec d a b s).trans (binaryOp_firstSource ha)
  · exact (hexec d a b s).trans (binaryOp_secondSource ha hb)
  · exact (hexec d a b s).trans (binaryOp_dest ha hb hd)
  · obtain ⟨hrel, hflags⟩ := halu s (s.val a) (s.val b)
    exact ⟨_, _, (hexec d a b s).trans (binaryOp_inRange ha hb hd), hrel, resultStored_setVal _ hwf hd hflags⟩

/-- R89, R140: so is a one-register instruction, with its register in `s3`. -/
theorem oneRegister_of_unaryAlu {op : Nat} {i : Reg → Instr} {rel : Word → Word → Prop}
    {fl : Word → Word → List (Nat × Bool)} (g : Word → Half → Word × Half) (halu : UnaryAlu g rel fl)
    (hexec : ∀ r s, exec (i r) s = unaryOp g r s := by intros; rfl) (hop : op < 256 := by decide)
    (hcode : ∀ r, (i r).opcode = BitVec.ofNat 8 op := by intros; rfl)
    (hslot : ∀ w r, HasOperands w (i r) ↔ s3 w = r := by intros; rfl) : OneRegister op i rel fl := by
  refine ⟨encodesA_of_hasOperands hop (fun _ _ => hcode) fun f1 f2 f3 => ?_, fun s r hr => ?_, fun s r hwf hr => ?_⟩
  · exact (hslot _ f3).mpr (s3_formatA _ f1 f2 f3)
  · exact (hexec r s).trans (unaryOp_outOfRange hr)
  · obtain ⟨hrel, hflags⟩ := halu s (s.val r)
    exact ⟨_, _, (hexec r s).trans (unaryOp_inRange hr), hrel, resultStored_setVal _ hwf hr hflags⟩

/-! The result flags (R141). -/

/-- A count along `0 .. n-1` is the number of elements of a set of `Fin n`. -/
theorem countP_range_eq_card (p : Nat → Bool) (n : Nat) :
    (List.range n).countP p = (Finset.univ.filter fun i : Fin n => p i.val = true).card := by
  calc (List.range n).countP p
      = Nat.count (fun i => p i = true) n := by simp [Nat.count]
    _ = ∑ i ∈ Finset.range n, if p i = true then 1 else 0 := by rw [Nat.count_eq_card_filter_range, Finset.card_filter]
    _ = ∑ i : Fin n, if p i.val = true then 1 else 0 := (Fin.sum_univ_eq_sum_range (fun i => if p i = true then 1 else 0) n).symm
    _ = _ := (Finset.card_filter _ _).symm

theorem beq_zero_eq_decide (r : Word) : (r == 0) = decide (r.toNat = 0) := by
  rw [Bool.eq_iff_iff, beq_iff_eq, decide_eq_true_eq, ← BitVec.toNat_inj]
  rfl

theorem signBit_eq_decide (r : Word) : r.getLsbD 31 = decide (2 ^ 31 ≤ r.toNat) :=
  (BitVec.msb_eq_getLsbD_last r).symm.trans (BitVec.msb_eq_decide r)

section flags
variable {s t u : State} {r : Word} {fl : List (Nat × Bool)}

/-- R141: `Z`, `P`, `S` join the flags set before, where those are others. -/
theorem flagsBecome_intFlags (h : FlagsBecome s t fl) (hfl : ∀ p ∈ fl, p.1 ∉ [0, 1, 8])
    (hu : u.flags = intFlags t.flags r) : FlagsBecome s u (integerFlags r ++ fl) := by
  obtain ⟨hset, hkeep⟩ := h
  have hflag (k : Nat) : getFlag u.flags k =
      if k = 8 then decide (2 ^ 31 ≤ r.toNat) else if k = 1 then parity r
        else if k = 0 then decide (r.toNat = 0) else getFlag t.flags k := by
    rw [hu, getFlag_intFlags, signBit_eq_decide, beq_zero_eq_decide]
  refine ⟨fun p hp => ?_, fun k hk => ?_⟩
  · obtain hp | hp := List.mem_append.mp hp
    · simp only [integerFlags, List.mem_cons, List.not_mem_nil, or_false] at hp
      obtain rfl | rfl | rfl := hp <;> exact hflag _
    · have hother := hfl p hp
      simp only [List.mem_cons, List.not_mem_nil, or_false, not_or] at hother
      obtain ⟨h0, h1, h8⟩ := hother
      rw [hflag, if_neg h8, if_neg h1, if_neg h0]
      exact hset p hp
  · simp only [List.map_append, List.mem_append, not_or, integerFlags, List.map_cons, List.map_nil, List.mem_cons,
      List.not_mem_nil, not_false_iff, and_true] at hk
    obtain ⟨⟨h0, h1, h8⟩, hk⟩ := hk
    rw [hflag, if_neg h8, if_neg h1, if_neg h0]
    exact hkeep k hk

/-- R141: `intflags` alone. -/
theorem flagsBecome_integerFlags (hu : u.flags = intFlags s.flags r) : FlagsBecome s u (integerFlags r) := by
  have h := flagsBecome_intFlags (flagsBecome_nil (s := s) rfl) (List.forall_mem_nil _) hu
  rwa [List.append_nil] at h

end flags

/-! The result Word: `n mod 2^32` as a number, unsigned and signed (R8). -/

theorem wordOfInt_toNat (n : Int) : ((wordOfInt n).toNat : Int) = n % 2 ^ 32 := by
  rw [wordOfInt, BitVec.toNat_ofInt]
  omega

/-- s(w) and u(w) are the same modulo 2^32, so the exact signed and unsigned results are. -/
theorem toInt_modEq_uInt (w : Word) : w.toInt ≡ uInt w [ZMOD 2 ^ 32] := by
  have h := wordOfInt_toNat w.toInt
  rw [wordOfInt, BitVec.ofInt_toInt] at h
  rw [uInt, h]
  exact (Int.mod_modEq _ _).symm

/-- R142: `S != s(r)` exactly where `S` is no 32-bit signed number. -/
theorem ne_toInt_wordOfInt_iff {S U : Int} (h : S ≡ U [ZMOD 2 ^ 32]) :
    S ≠ (wordOfInt U).toInt ↔ S < -2 ^ 31 ∨ 2 ^ 31 - 1 < S := by
  have hr : (wordOfInt U).toInt = S.bmod (2 ^ 32) := by
    rw [wordOfInt, BitVec.toInt_ofInt, ← Int.emod_bmod U, ← Int.emod_bmod S]
    exact congrArg (Int.bmod · (2 ^ 32)) h.symm
  rw [hr, ne_comm, Ne, Int.bmod_eq_iff (by decide)]
  omega

/-- R142: `U != u(r)` exactly where `U` is no 32-bit unsigned number. -/
theorem ne_toNat_wordOfInt_iff (U : Int) : U ≠ ((wordOfInt U).toNat : Int) ↔ U < 0 ∨ 2 ^ 32 ≤ U := by
  rw [wordOfInt_toNat]
  omega

/-! A sum, product, quotient or remainder of unsigned readings is a natural number: it can only be too large. -/

theorem uInt_add (wa wb : Word) : uInt wa + uInt wb = ((wa.toNat + wb.toNat : Nat) : Int) := (Nat.cast_add _ _).symm

theorem uInt_mul (wa wb : Word) : uInt wa * uInt wb = ((wa.toNat * wb.toNat : Nat) : Int) := (Nat.cast_mul _ _).symm

section natural
variable {U : Int} {n : Nat} (h : U = n)
include h

theorem wordOfInt_toNat_of_natCast : (wordOfInt U).toNat = n % 2 ^ 32 := by
  rw [h, wordOfInt, BitVec.ofInt_natCast, BitVec.toNat_ofNat]

theorem le_natCast_iff_unfit : 2 ^ 32 ≤ n ↔ U < 0 ∨ 2 ^ 32 ≤ U := by
  omega

end natural

/-! What each operation leaves in the flag register, as a list (R142, R146, R147). -/

section results
variable (s : State)

/-- R142: `r`, `V` and `C` from exact results `S` and `U`, the conditions of `V` and `C` in the words of the instruction. -/
theorem wideResult_flags {S U : Int} {V C : Prop} [Decidable V] [Decidable C] (h : S ≡ U [ZMOD 2 ^ 32])
    (hV : V ↔ S < -2 ^ 31 ∨ 2 ^ 31 - 1 < S) (hC : C ↔ U < 0 ∨ 2 ^ 32 ≤ U) :
    FlagsBecome s (s.setFlags (wideResult S U s.flags).2)
      (integerFlags (wideResult S U s.flags).1 ++ [(9, decide V), (10, decide C)]) := by
  have hv : (S != (wordOfInt U).toInt) = decide V := by
    rw [Bool.eq_iff_iff, bne_iff_ne, decide_eq_true_eq, ne_toInt_wordOfInt_iff h, hV]
  have hc : (U != ((wordOfInt U).toNat : Int)) = decide C := by
    rw [Bool.eq_iff_iff, bne_iff_ne, decide_eq_true_eq, ne_toNat_wordOfInt_iff, hC]
  have hVC : FlagsBecome s (s.setFlags (overflowFlags s.flags S U (wordOfInt U))) [(9, decide V), (10, decide C)] := by
    rw [← hv, ← hc]
    constructor <;> simp +contextual [getFlag_overflowFlags]
  exact flagsBecome_intFlags hVC (by simp) rfl

/-- R146: `C` alone, in the words of the instruction. -/
theorem aluUmul_flags (wa wb : Word) :
    FlagsBecome s (s.setFlags (aluUmul wa wb s.flags).2)
      (integerFlags (aluUmul wa wb s.flags).1 ++ [(10, decide (2 ^ 32 ≤ wa.toNat * wb.toNat))]) := by
  have hc : (uInt wa * uInt wb != ((wordOfInt (uInt wa * uInt wb)).toNat : Int)) = decide (2 ^ 32 ≤ wa.toNat * wb.toNat) := by
    rw [Bool.eq_iff_iff, bne_iff_ne, decide_eq_true_eq, ne_toNat_wordOfInt_iff, le_natCast_iff_unfit (uInt_mul wa wb)]
  have hC : FlagsBecome s (s.setFlags (carryFlag s.flags (uInt wa * uInt wb) (wordOfInt (uInt wa * uInt wb))))
      [(10, decide (2 ^ 32 ≤ wa.toNat * wb.toNat))] := by
    rw [← hc]
    constructor <;> simp +contextual [getFlag_carryFlag]
  exact flagsBecome_intFlags hC (by simp) rfl

/-- R147: `DZ` is assigned whatever the divisor. -/
theorem divResult_flags (isZero : Bool) (q : Int) :
    FlagsBecome s (s.setFlags (divResult isZero q s.flags).2)
      (integerFlags (divResult isZero q s.flags).1 ++ [(12, isZero)]) := by
  have hDZ : FlagsBecome s (s.setFlags (divZeroFlag s.flags isZero)) [(12, isZero)] := by
    constructor <;> simp +contextual [getFlag_divZeroFlag]
  exact flagsBecome_intFlags hDZ (by simp) rfl

end results

/-! Division and remainder (R147). -/

/-- R147: `tdiv` as the rule writes it. -/
theorem truncatedQuotient_eq_tdiv (n m : Int) : truncatedQuotient n m = n.tdiv m := by
  rw [truncatedQuotient, ← Int.sign_mul_natAbs (n.tdiv m), Int.sign_tdiv, Int.natAbs_tdiv]
  split
  case isTrue hlt =>
    rw [Nat.div_eq_of_lt hlt]
    simp
  case isFalse => rfl

/-- R147: a signed quotient or remainder modulo 2^32, 0 by zero. -/
theorem divResult_signed (m q : Int) (f : Half) :
    ((divResult (m == 0) q f).1.toNat : Int) = (if m = 0 then 0 else q) % 2 ^ 32 := by
  unfold divResult
  by_cases hm : m = 0
  · simp [hm]
  · simpa [hm] using wordOfInt_toNat q

/-- R149, R151: an unsigned one fits. -/
theorem divResult_unsigned (m : Nat) {q : Nat} (hq : q < 2 ^ 32) (f : Half) :
    (divResult (m == 0) q f).1.toNat = if m = 0 then 0 else q := by
  unfold divResult
  by_cases hm : m = 0
  · simp [hm]
  · have hr : (wordOfInt q).toNat = q := (wordOfInt_toNat_of_natCast rfl).trans (Nat.mod_eq_of_lt hq)
    simpa [hm] using hr

/-! The obligations. -/

/-- Settles O3: `PARITY` counts along the list of positions, and `intflags` adds its three flags to none. -/
theorem parityCountsOneBits : Obligations.ParityCountsOneBits := by
  refine ⟨fun r => ?_, fun s t r h => flagsBecome_integerFlags h⟩
  rw [parity, beq_iff_eq, onesCount, countP_range_eq_card]

/-- Settles O16. -/
theorem iaddResult : Obligations.IaddResult :=
  threeRegister_of_binaryAlu aluIadd fun s wa wb =>
    have hmod := (toInt_modEq_uInt wa).add (toInt_modEq_uInt wb)
    have hU := uInt_add wa wb
    ⟨wordOfInt_toNat_of_natCast hU, wideResult_flags s hmod .rfl (le_natCast_iff_unfit hU)⟩

/-- Settles O17: the difference of unsigned readings fails to fit downward only, which is the borrow. -/
theorem isubResult : Obligations.IsubResult := by
  refine threeRegister_of_binaryAlu aluIsub fun s wa wb => ?_
  have hmod := (toInt_modEq_uInt wa).sub (toInt_modEq_uInt wb)
  have hborrow : wa.toNat < wb.toNat ↔ uInt wa - uInt wb < 0 ∨ 2 ^ 32 ≤ uInt wa - uInt wb := by
    unfold uInt
    omega
  exact ⟨wordOfInt_toNat (uInt wa - uInt wb), wideResult_flags s hmod .rfl hborrow⟩

/-- Settles O18. -/
theorem imulResult : Obligations.ImulResult :=
  threeRegister_of_binaryAlu aluImul fun s wa wb =>
    have hmod := (toInt_modEq_uInt wa).mul (toInt_modEq_uInt wb)
    have hU := uInt_mul wa wb
    ⟨wordOfInt_toNat_of_natCast hU, wideResult_flags s hmod .rfl (le_natCast_iff_unfit hU)⟩

/-- Settles O19. -/
theorem umulResult : Obligations.UmulResult :=
  threeRegister_of_binaryAlu aluUmul fun s wa wb =>
    ⟨wordOfInt_toNat_of_natCast (uInt_mul wa wb), aluUmul_flags s wa wb⟩

/-- Settles O20: the rule's quotient is the one the model computes. -/
theorem idivResult : Obligations.IdivResult := by
  refine threeRegister_of_binaryAlu aluIdiv fun s wa wb => ⟨?_, divResult_flags s _ _⟩
  rw [truncatedQuotient_eq_tdiv]
  exact divResult_signed wb.toInt _ s.flags

/-- Settles O21: a quotient is no larger than its dividend. -/
theorem udivResult : Obligations.UdivResult :=
  threeRegister_of_binaryAlu aluUdiv fun s wa wb =>
    have hfit := (Nat.div_le_self wa.toNat wb.toNat).trans_lt wa.isLt
    ⟨divResult_unsigned wb.toNat hfit s.flags, divResult_flags s _ _⟩

/-- Settles O22: the rule's remainder goes with its quotient. -/
theorem imodResult : Obligations.ImodResult := by
  refine threeRegister_of_binaryAlu aluImod fun s wa wb => ⟨?_, divResult_flags s _ _⟩
  rw [truncatedQuotient_eq_tdiv, ← Int.tmod_def]
  exact divResult_signed wb.toInt _ s.flags

/-- Settles O23: a remainder is no larger than its dividend. -/
theorem umodResult : Obligations.UmodResult :=
  threeRegister_of_binaryAlu aluUmod fun s wa wb =>
    have hfit := (Nat.mod_le wa.toNat wb.toNat).trans_lt wa.isLt
    ⟨divResult_unsigned wb.toNat hfit s.flags, divResult_flags s _ _⟩

/-- Settles O24: `IADD` with 1, where `V` can only be an overflow upward. -/
theorem incResult : Obligations.IncResult := by
  refine oneRegister_of_unaryAlu (fun wa f => aluIadd wa 1 f) fun s wa => ?_
  have hmod := (toInt_modEq_uInt wa).add (toInt_modEq_uInt 1)
  have hU : uInt wa + uInt 1 = ((wa.toNat + 1 : Nat) : Int) := uInt_add wa 1
  have hV : 2 ^ 31 - 1 < wa.toInt + 1 ↔ wa.toInt + 1 < -2 ^ 31 ∨ 2 ^ 31 - 1 < wa.toInt + 1 := by
    have hlow := wa.le_toInt
    omega
  exact ⟨wordOfInt_toNat_of_natCast hU, wideResult_flags s hmod hV (le_natCast_iff_unfit hU)⟩

/-- Settles O25: `ISUB` with 1, where `V` can only be an overflow downward and the borrow is that of 0 alone. -/
theorem decResult : Obligations.DecResult := by
  refine oneRegister_of_unaryAlu (fun wa f => aluIsub wa 1 f) fun s wa => ?_
  have hmod := (toInt_modEq_uInt wa).sub (toInt_modEq_uInt 1)
  have hV : wa.toInt - 1 < -2 ^ 31 ↔ wa.toInt - 1 < -2 ^ 31 ∨ 2 ^ 31 - 1 < wa.toInt - 1 := by
    have hhigh := wa.toInt_lt
    omega
  have hC : wa.toNat = 0 ↔ (wa.toNat : Int) - 1 < 0 ∨ 2 ^ 32 ≤ (wa.toNat : Int) - 1 := by
    omega
  exact ⟨wordOfInt_toNat (uInt wa - uInt 1), wideResult_flags s hmod hV hC⟩

/-- Settles O26: `-s(wa)` and `-u(wa)` are the same modulo 2^32. -/
theorem inegResult : Obligations.InegResult := by
  refine oneRegister_of_unaryAlu aluIneg fun s wa => ?_
  have hr : ((aluIneg wa s.flags).1.toNat : Int) = -wa.toInt % 2 ^ 32 := wordOfInt_toNat (-wa.toInt)
  have hu : ((aluIneg wa s.flags).1.toNat : Int) = -wa.toNat % 2 ^ 32 := hr.trans (toInt_modEq_uInt wa).neg
  exact ⟨⟨hr, by omega⟩, flagsBecome_integerFlags rfl⟩

end Sys2Proof.Proofs
end

section
/-! The family of 43_float_arithmetic.md, first part: the binary32 Word and its datum (R170), and the flags of a float result
(R172). A Word that is neither a NaN nor an infinity is put together from a sign, a significand and an exponent. -/

namespace Sys2Proof.Proofs

open Sys2Proof.Machine Sys2Proof.Claims

/-! Powers of two. -/

theorem mul_two_pow_of_le {l e : Nat} (m : Nat) (h : l ≤ e) : m * 2 ^ e = m * 2 ^ (e - l) * 2 ^ l := by
  rw [Nat.mul_assoc, ← pow_add, Nat.sub_add_cancel h]

theorem mul_two_pow_lt {m a b c : Nat} (hm : m < 2 ^ a) (h : a + b ≤ c) : m * 2 ^ b < 2 ^ c := by
  have hmul := Nat.mul_lt_mul_of_pos_right hm (Nat.two_pow_pos b)
  rw [← pow_add] at hmul
  exact hmul.trans_le (Nat.pow_le_pow_right Nat.two_pos h)

theorem log2_mul_two_pow {v : Nat} (e : Nat) (hv : v ≠ 0) : (v * 2 ^ e).log2 = v.log2 + e := by
  induction e with
  | zero => rw [Nat.pow_zero, Nat.mul_one, Nat.add_zero]
  | succ e ih =>
    rw [Nat.pow_succ', Nat.mul_left_comm, Nat.log2_two_mul (Nat.mul_ne_zero hv (Nat.two_pow_pos e).ne'), ih, Nat.add_assoc]

/-! The fields of a Word as numbers. -/

theorem toNat_eq_fields (w : Word) :
    w.toNat = (decide (2 ^ 31 ≤ w.toNat)).toNat * 2 ^ 31 + w.toNat / 2 ^ 23 % 2 ^ 8 * 2 ^ 23 + w.toNat % 2 ^ 23 := by
  have hw := w.isLt
  by_cases hsign : 2 ^ 31 ≤ w.toNat
  · rw [decide_eq_true hsign, Bool.toNat_true]
    omega
  · rw [decide_eq_false hsign, Bool.toNat_false]
    omega

theorem exponentField_toNat (w : Word) : (w.extractLsb' 23 8).toNat = w.toNat / 2 ^ 23 % 2 ^ 8 := by
  rw [BitVec.extractLsb'_toNat, Nat.shiftRight_eq_div_pow]

theorem fractionField_toNat (w : Word) : (w.extractLsb' 0 23).toNat = w.toNat % 2 ^ 23 := by
  rw [BitVec.extractLsb'_toNat, Nat.shiftRight_zero]

section fields
variable {w : Word}

theorem datum_nan (he : w.toNat / 2 ^ 23 % 2 ^ 8 = 255) (hm : w.toNat % 2 ^ 23 ≠ 0) : datum w = .nan := by
  simp only [datum, exponentField_toNat, fractionField_toNat, if_pos he, if_neg hm]

theorem datum_inf (he : w.toNat / 2 ^ 23 % 2 ^ 8 = 255) (hm : w.toNat % 2 ^ 23 = 0) :
    datum w = .inf (decide (2 ^ 31 ≤ w.toNat)) := by
  simp only [datum, exponentField_toNat, fractionField_toNat, signBit_eq_decide, if_pos he, if_pos hm]

theorem datum_subnormal (he : w.toNat / 2 ^ 23 % 2 ^ 8 = 0) :
    datum w = .fin (decide (2 ^ 31 ≤ w.toNat)) (w.toNat % 2 ^ 23 * 2 ^ 925) := by
  simp only [datum, exponentField_toNat, fractionField_toNat, signBit_eq_decide, he]
  rfl

theorem datum_normal (h0 : w.toNat / 2 ^ 23 % 2 ^ 8 ≠ 0) (h255 : w.toNat / 2 ^ 23 % 2 ^ 8 ≠ 255) :
    datum w = .fin (decide (2 ^ 31 ≤ w.toNat))
      ((2 ^ 23 + w.toNat % 2 ^ 23) * 2 ^ (w.toNat / 2 ^ 23 % 2 ^ 8 - 1) * 2 ^ 925) := by
  simp only [datum, exponentField_toNat, fractionField_toNat, signBit_eq_decide, if_neg h0, if_neg h255]

end fields

theorem wordOfDatum_inf_toNat (neg : Bool) : (wordOfDatum (.inf neg)).toNat = neg.toNat * 2 ^ 31 + 255 * 2 ^ 23 := by
  cases neg <;> rfl

/-! The finite Words. -/

theorem wordOfDatum_fin (neg : Bool) (q : Nat) : wordOfDatum (.fin neg q) =
    BitVec.ofNat 32 (neg.toNat * 2 ^ 31 + ((q / 2 ^ 925).log2 - 23) * 2 ^ 23 + q / 2 ^ 925 / 2 ^ ((q / 2 ^ 925).log2 - 23)) := rfl

/-- A significand of 24 bits with its leading bit set, or any with the smallest exponent: the one form of a finite binary32
magnitude `v * 2^e * 2^-149` that its Word writes down (R170). -/
structure Canonical (v e : Nat) : Prop where
  significand_lt : v < 2 ^ 24
  exponent_le : e ≤ 253
  leading : 2 ^ 23 ≤ v ∨ e = 0

/-- The Word of sign, significand and exponent: the leading bit of the significand carries into the exponent field. -/
def partsWord (neg : Bool) (v e : Nat) : Word := BitVec.ofNat 32 (neg.toNat * 2 ^ 31 + e * 2 ^ 23 + v)

section parts
variable {v e : Nat} (h : Canonical v e) (neg : Bool)
include h

theorem partsWord_toNat : (partsWord neg v e).toNat = neg.toNat * 2 ^ 31 + e * 2 ^ 23 + v := by
  obtain ⟨hv, he, -⟩ := h
  have hneg := neg.toNat_le
  rw [partsWord, BitVec.toNat_ofNat, Nat.mod_eq_of_lt (by omega)]

theorem partsWord_signBit : decide (2 ^ 31 ≤ (partsWord neg v e).toNat) = neg := by
  rw [partsWord_toNat h]
  obtain ⟨hv, he, -⟩ := h
  cases neg
  case false => exact decide_eq_false (by rw [Bool.toNat_false]; omega)
  case true => exact decide_eq_true (by rw [Bool.toNat_true]; omega)

theorem datum_partsWord : datum (partsWord neg v e) = .fin neg (v * 2 ^ e * 2 ^ 925) := by
  have hw := partsWord_toNat h neg
  have hsign := partsWord_signBit h neg
  obtain ⟨hv, he, hlead⟩ := h
  by_cases hsub : v < 2 ^ 23
  case pos =>
    obtain rfl : e = 0 := by omega
    rw [datum_subnormal (by omega), hsign, show (partsWord neg v 0).toNat % 2 ^ 23 = v by omega, Nat.pow_zero, Nat.mul_one]
  case neg =>
    have hexp : (partsWord neg v e).toNat / 2 ^ 23 % 2 ^ 8 = e + 1 := by omega
    have hfrac : 2 ^ 23 + (partsWord neg v e).toNat % 2 ^ 23 = v := by omega
    rw [datum_normal (by omega) (by omega), hsign, hexp, hfrac, Nat.add_sub_cancel]

/-- The exponent is what the length of the magnitude says. -/
theorem log2_canonical : (v * 2 ^ e).log2 - 23 = e := by
  obtain ⟨hv, -, hlead⟩ := h
  by_cases hzero : v = 0
  case pos =>
    subst hzero
    rw [Nat.zero_mul, Nat.log2_zero]
    omega
  case neg =>
    have hlog : v.log2 < 24 := (Nat.log2_lt hzero).mpr hv
    have hlog' : 2 ^ 23 ≤ v → 23 ≤ v.log2 := (Nat.le_log2 hzero).mpr
    rw [log2_mul_two_pow e hzero]
    omega

theorem wordOfDatum_canonical : wordOfDatum (.fin neg (v * 2 ^ e * 2 ^ 925)) = partsWord neg v e := by
  rw [wordOfDatum_fin, Nat.mul_div_cancel _ (Nat.two_pow_pos 925), log2_canonical h,
    Nat.mul_div_cancel _ (Nat.two_pow_pos e), partsWord]

end parts

/-- Every Word is a NaN, an infinity or finite, and a finite one has its parts. -/
theorem word_cases (w : Word) :
    isNaN w = true ∨ (∃ neg, w = wordOfDatum (.inf neg)) ∨ ∃ neg v e, Canonical v e ∧ w = partsWord neg v e := by
  have hw := toNat_eq_fields w
  have hm : w.toNat % 2 ^ 23 < 2 ^ 23 := Nat.mod_lt _ (Nat.two_pow_pos 23)
  have he : w.toNat / 2 ^ 23 % 2 ^ 8 < 2 ^ 8 := Nat.mod_lt _ (Nat.two_pow_pos 8)
  have hfinite {v e : Nat} (h : Canonical v e)
      (hve : e * 2 ^ 23 + v = w.toNat / 2 ^ 23 % 2 ^ 8 * 2 ^ 23 + w.toNat % 2 ^ 23) :
      ∃ neg v e, Canonical v e ∧ w = partsWord neg v e :=
    ⟨_, v, e, h, BitVec.eq_of_toNat_eq (by rw [partsWord_toNat h, Nat.add_assoc, hve, ← Nat.add_assoc]; exact hw)⟩
  by_cases h255 : w.toNat / 2 ^ 23 % 2 ^ 8 = 255
  case pos =>
    by_cases hzero : w.toNat % 2 ^ 23 = 0
    · refine .inr (.inl ⟨decide (2 ^ 31 ≤ w.toNat), BitVec.eq_of_toNat_eq ?_⟩)
      rwa [wordOfDatum_inf_toNat, ← h255, ← Nat.add_zero (_ + _), ← hzero]
    · exact .inl ((isNaN_iff w).mpr (datum_nan h255 hzero))
  case neg =>
    refine .inr (.inr ?_)
    by_cases h0 : w.toNat / 2 ^ 23 % 2 ^ 8 = 0
    · exact hfinite (v := w.toNat % 2 ^ 23) (e := 0) ⟨by omega, by omega, .inr rfl⟩ (by rw [h0])
    · exact hfinite (v := 2 ^ 23 + w.toNat % 2 ^ 23) (e := w.toNat / 2 ^ 23 % 2 ^ 8 - 1)
        ⟨by omega, by omega, .inl (by omega)⟩ (by omega)

/-- A magnitude with 24 significant bits can be shifted until its leading bit is set or its exponent is the smallest. -/
theorem exists_leading (k : Nat) : ∀ {m : Nat}, m < 2 ^ 24 →
    ∃ v e, v < 2 ^ 24 ∧ (2 ^ 23 ≤ v ∨ e = 0) ∧ m * 2 ^ k = v * 2 ^ e := by
  induction k with
  | zero => exact fun hm => ⟨_, 0, hm, .inr rfl, rfl⟩
  | succ k ih =>
    intro m hm
    by_cases hlead : 2 ^ 23 ≤ m
    case pos => exact ⟨m, k + 1, hm, .inl hlead, rfl⟩
    case neg =>
      obtain ⟨v, e, hv, hve, heq⟩ := ih (m := m * 2) (by omega)
      exact ⟨v, e, hv, hve, by rw [← heq]; ring⟩

theorem exists_canonical {q : Nat} (h : Representable 24 925 q) (hq : q < 2 ^ 1202) :
    ∃ v e, Canonical v e ∧ q = v * 2 ^ e * 2 ^ 925 := by
  obtain ⟨m, e', hm, he', rfl⟩ := h
  obtain ⟨v, e, hv, hve, heq⟩ := exists_leading (e' - 925) hm
  have hval : m * 2 ^ e' = v * 2 ^ e * 2 ^ 925 := by
    rw [← heq, mul_two_pow_of_le m he']
  refine ⟨v, e, ⟨hv, hve.elim (fun hlead => ?_) (by omega), hve⟩, hval⟩
  have hpow : 2 ^ (23 + e + 925) < 2 ^ 1202 := calc
    2 ^ (23 + e + 925) = 2 ^ 23 * 2 ^ e * 2 ^ 925 := by rw [pow_add, pow_add]
    _ ≤ v * 2 ^ e * 2 ^ 925 := Nat.mul_le_mul_right _ (Nat.mul_le_mul_right _ hlead)
    _ = m * 2 ^ e' := hval.symm
    _ < 2 ^ 1202 := hq
  have hexp := (Nat.pow_lt_pow_iff_right (by decide)).mp hpow
  omega

/-! The float result flags (R172). -/

/-- Both zeros and nothing else are zero: the magnitude is 0 exactly where bits 30..0 are. -/
theorem partsWord_magnitude_eq_zero {v e : Nat} (h : Canonical v e) (neg : Bool) :
    v * 2 ^ e * 2 ^ 925 = 0 ↔ (partsWord neg v e).toNat % 2 ^ 31 = 0 := by
  have hw := partsWord_toNat h neg
  obtain ⟨hv, he, hlead⟩ := h
  have hpow : ∀ k, 2 ^ k ≠ 0 := fun k => (Nat.two_pow_pos k).ne'
  rw [Nat.mul_eq_zero, Nat.mul_eq_zero, or_iff_left (hpow 925), or_iff_left (hpow e), hw]
  omega

theorem magnitudeBits_ne_zero_of_isNaN {w : Word} (h : isNaN w = true) : w.toNat % 2 ^ 31 ≠ 0 := by
  intro hzero
  have hsub : datum w = _ := datum_subnormal (by omega)
  rw [(isNaN_iff w).mp h] at hsub
  exact nomatch hsub

theorem signedUnits_eq_zero {neg : Bool} {q : Nat} : signedUnits neg q = 0 ↔ q = 0 := by
  unfold signedUnits
  split <;> omega

theorem signedUnits_neg {neg : Bool} {q : Nat} : signedUnits neg q < 0 ↔ neg = true ∧ q ≠ 0 := by
  cases neg <;> simp [signedUnits, Nat.pos_iff_ne_zero]

theorem eqIeee_zero_eq_decide (w : Word) : (datum w).eqIeee (.fin false 0) = decide (w.toNat % 2 ^ 31 = 0) := by
  obtain hnan | ⟨neg, rfl⟩ | ⟨neg, v, e, h, rfl⟩ := word_cases w
  · rw [(isNaN_iff w).mp hnan, Datum.eqIeee_nan_left, decide_eq_false (magnitudeBits_ne_zero_of_isNaN hnan)]
  · cases neg <;> decide
  · rw [datum_partsWord h, Bool.eq_iff_iff, decide_eq_true_eq, ← partsWord_magnitude_eq_zero h]
    exact beq_iff_eq.trans signedUnits_eq_zero

theorem ltIeee_zero_eq_decide (w : Word) :
    (datum w).ltIeee (.fin false 0) = (w.getLsbD 31 && decide (w.toNat % 2 ^ 31 ≠ 0) && !isNaN w) := by
  obtain hnan | ⟨neg, rfl⟩ | ⟨neg, v, e, h, rfl⟩ := word_cases w
  · rw [(isNaN_iff w).mp hnan, Datum.ltIeee_nan_left, hnan, Bool.not_true, Bool.and_false]
  · cases neg <;> decide
  · have hnan : isNaN (partsWord neg v e) = false := by
      rw [← Bool.not_eq_true, isNaN_iff, datum_partsWord h]
      exact nofun
    rw [hnan, Bool.not_false, Bool.and_true, signBit_eq_decide, partsWord_signBit h, datum_partsWord h, Bool.eq_iff_iff,
      Bool.and_eq_true, decide_eq_true_eq, Ne, ← partsWord_magnitude_eq_zero h]
    exact decide_eq_true_iff.trans signedUnits_neg

section flags
variable {s t u : State} {fl fl' : List (Nat × Bool)}

/-- Flags assigned one list after the other, where no flag is in both. -/
theorem flagsBecome_append (h : FlagsBecome s t fl) (h' : FlagsBecome t u fl') (hfl : ∀ p ∈ fl, p.1 ∉ fl'.map Prod.fst) :
    FlagsBecome s u (fl' ++ fl) := by
  obtain ⟨hset, hkeep⟩ := h
  obtain ⟨hset', hkeep'⟩ := h'
  refine ⟨fun p hp => ?_, fun k hk => ?_⟩
  · obtain hp | hp := List.mem_append.mp hp
    · exact hset' p hp
    · exact (hkeep' p.1 (hfl p hp)).trans (hset p hp)
  · rw [List.map_append, List.mem_append, not_or] at hk
    exact (hkeep' k hk.1).trans (hkeep k hk.2)

/-- R172: `floatflags` assigns `Z` and `S`. -/
theorem flagsBecome_floatFlags {r : Word} (hu : u.flags = floatFlags t.flags r) : FlagsBecome t u (floatResultFlags r) := by
  have hflag (k : Nat) : getFlag u.flags k =
      if k = 8 then r.getLsbD 31 && decide (r.toNat % 2 ^ 31 ≠ 0) && !isNaN r
        else if k = 0 then decide (r.toNat % 2 ^ 31 = 0) else getFlag t.flags k := by
    rw [hu, getFlag_floatFlags, eqIeee_zero_eq_decide, ltIeee_zero_eq_decide]
  refine ⟨fun p hp => ?_, fun k hk => ?_⟩
  · simp only [floatResultFlags, List.mem_cons, List.not_mem_nil, or_false] at hp
    obtain rfl | rfl := hp <;> exact hflag _
  · simp only [floatResultFlags, List.map_cons, List.map_nil, List.mem_cons, List.not_mem_nil, or_false, not_or] at hk
    obtain ⟨h0, h8⟩ := hk
    rw [hflag, if_neg h8, if_neg h0]

end flags

/-! Data and Words, back and forth. -/

theorem datum_wordOfDatum_fin {q : Nat} (neg : Bool) (h : Representable 24 925 q) (hq : q < 2 ^ 1202) :
    datum (wordOfDatum (.fin neg q)) = .fin neg q := by
  obtain ⟨v, e, hve, hval⟩ := exists_canonical h hq
  rw [hval, wordOfDatum_canonical hve, datum_partsWord hve]

theorem wordOfDatum_datum {w : Word} (h : isNaN w = false) : wordOfDatum (datum w) = w := by
  obtain hnan | ⟨neg, rfl⟩ | ⟨neg, v, e, hve, rfl⟩ := word_cases w
  · rw [h] at hnan
    exact nomatch hnan
  · rw [datum_wordOfDatum_inf]
  · rw [datum_partsWord hve, wordOfDatum_canonical hve]

/-- The two ways of counting the same exponent: from the bias, and in units of 2^-1074. -/
theorem normal_exponent {e : Nat} (he : e ≠ 0) : e - 1 + 925 = 1074 - 23 + e - 127 := by omega

/-- Settles O33. -/
theorem datumWordRoundTrip : Obligations.DatumWordRoundTrip := by
  refine ⟨fun w => ⟨datum_nan, datum_inf, fun h0 => ?_, fun h0 h255 => ?_⟩, fun w => wordOfDatum_datum,
    fun neg q => datum_wordOfDatum_fin neg⟩
  · exact (datum_subnormal h0).trans (by rw [show 1074 - 149 = 925 from rfl])
  · rw [datum_normal h0 h255, Nat.mul_assoc, ← pow_add, normal_exponent h0]

end Sys2Proof.Proofs
end

section
/-! The family of 43_float_arithmetic.md, second part: rounding to nearest, ties to even (R170). What is rounded without a largest
finite value is nearest; the overflow threshold of both formats follows from that. -/

namespace Sys2Proof.Proofs

open Sys2Proof.Machine Sys2Proof.Claims

/-! The nearest whole number. -/

/-- `roundEven n D * D` is at least as near to `n` as anything at most its multiple of `D` below or at least the one above, and is
an even multiple where another is as near. -/
theorem roundEven_nearest {n D y : Nat} (hD : 0 < D) (hy : y ≤ n / D * D ∨ (n / D + 1) * D ≤ y) :
    (((roundEven n D * D : Nat) : Int) - n).natAbs ≤ ((y : Int) - n).natAbs ∧
      ((((roundEven n D * D : Nat) : Int) - n).natAbs = ((y : Int) - n).natAbs → y ≠ roundEven n D * D →
        roundEven n D % 2 = 0) := by
  have hn : n / D * D + n % D = n := Nat.div_add_mod' n D
  have hr : n % D < D := Nat.mod_lt n hD
  rw [Nat.add_one_mul] at hy
  unfold roundEven
  dsimp only
  split
  case isTrue hlow => omega
  case isFalse hlow =>
    split
    case isTrue hhigh =>
      rw [Nat.add_one_mul]
      omega
    case isFalse hhigh =>
      obtain heven | hodd := Nat.mod_two_eq_zero_or_one (n / D)
      · rw [heven, Nat.add_zero]
        omega
      · rw [hodd, Nat.add_one_mul]
        omega

theorem roundEven_eq_or (n D : Nat) : roundEven n D = n / D ∨ roundEven n D = n / D + 1 := by
  unfold roundEven
  dsimp only
  split
  · exact .inl rfl
  · split
    · exact .inr rfl
    · omega

theorem roundEven_mul_right (n D : Nat) {c : Nat} (hc : 0 < c) : roundEven (n * c) (D * c) = roundEven n D := by
  have hlt (x y : Nat) : 2 * (x * c) < y * c ↔ 2 * x < y := by
    rw [← Nat.mul_assoc, Nat.mul_lt_mul_right hc]
  have hlt' (x y : Nat) : y * c < 2 * (x * c) ↔ y < 2 * x := by
    rw [← Nat.mul_assoc, Nat.mul_lt_mul_right hc]
  simp only [roundEven, Nat.mul_div_mul_right _ _ hc, Nat.mul_mod_mul_right, hlt, hlt']

/-! The magnitude that `roundTo` rounds to, and how far apart its neighbours are. -/

/-- The exponent of the last fraction bit of a magnitude whose integer part is `N` (R170). -/
def lastBit (p g N : Nat) : Nat := max g (N.log2 - (p - 1))

/-- The whole number of last fraction bits that `roundTo` answers. -/
def roundedDigits (p g n d : Nat) : Nat := roundEven n (d * 2 ^ lastBit p g (n / d))

/-- The magnitude that `roundTo` answers, were there no largest one. -/
def roundedUnits (p g n d : Nat) : Nat := roundedDigits p g n d * 2 ^ lastBit p g (n / d)

theorem roundTo_eq (p g top : Nat) (neg : Bool) (n d : Nat) : roundTo p g top neg n d =
    if roundedUnits p g n d < 2 ^ top then .fin neg (roundedUnits p g n d) else .inf neg := rfl

/-- Rounding sees the quotient alone. -/
theorem roundTo_mul_right (p g top : Nat) (neg : Bool) (n d : Nat) {c : Nat} (hc : 0 < c) :
    roundTo p g top neg (n * c) (d * c) = roundTo p g top neg n d := by
  have hunits : roundedUnits p g (n * c) (d * c) = roundedUnits p g n d := by
    simp only [roundedUnits, roundedDigits, Nat.mul_div_mul_right _ _ hc, Nat.mul_right_comm d c, roundEven_mul_right _ _ hc]
  rw [roundTo_eq, roundTo_eq, hunits]

/-- `q` is a representable magnitude nearest to `n / d`, its last fraction bit 0 where another is as near. -/
def NearestEven (p g n d q : Nat) : Prop :=
  Representable p g q ∧ ∀ q', Representable p g q' →
    ((q * d : Int) - n).natAbs ≤ ((q' * d : Int) - n).natAbs ∧
    (((q * d : Int) - n).natAbs = ((q' * d : Int) - n).natAbs → q' ≠ q → q / 2 ^ lastBit p g q % 2 = 0)

section neighbours
variable {p g N : Nat}

/-- The integer part has at most `p` digits in front of its last fraction bit. -/
theorem div_lastBit_lt (hp : 0 < p) : N / 2 ^ lastBit p g N < 2 ^ p := by
  have hlog : N.log2 + 1 ≤ p + lastBit p g N := by
    unfold lastBit
    omega
  rw [Nat.div_lt_iff_lt_mul (Nat.two_pow_pos _), ← pow_add]
  exact Nat.lt_log2_self.trans_le (Nat.pow_le_pow_right Nat.two_pos hlog)

/-- It has exactly `p` where the smallest exponent does not hold it back. -/
theorem le_div_lastBit (hg : lastBit p g N ≠ g) : 2 ^ (p - 1) ≤ N / 2 ^ lastBit p g N := by
  have hlog : p - 1 + lastBit p g N = N.log2 := by
    unfold lastBit at hg ⊢
    omega
  have hN : N ≠ 0 := by
    rintro rfl
    refine hg ?_
    rw [lastBit, Nat.log2_zero]
    omega
  rw [Nat.le_div_iff_mul_le (Nat.two_pow_pos _), ← pow_add, hlog]
  exact Nat.log2_self_le hN

/-- No representable magnitude lies between two neighbouring multiples of the last fraction bit. -/
theorem representable_gap {q : Nat} (h : Representable p g q) :
    q ≤ N / 2 ^ lastBit p g N * 2 ^ lastBit p g N ∨ (N / 2 ^ lastBit p g N + 1) * 2 ^ lastBit p g N ≤ q := by
  obtain ⟨m, e, hm, he, rfl⟩ := h
  generalize hlast : lastBit p g N = l
  obtain hle | hlt := le_or_gt l e
  case inl =>
    rw [mul_two_pow_of_le m hle]
    obtain hbelow | habove := le_or_gt (m * 2 ^ (e - l)) (N / 2 ^ l)
    · exact .inl (Nat.mul_le_mul_right _ hbelow)
    · exact .inr (Nat.mul_le_mul_right _ habove)
  case inr =>
    have hdigits := le_div_lastBit (p := p) (g := g) (N := N) (by omega)
    rw [hlast] at hdigits
    refine .inl ?_
    calc m * 2 ^ e ≤ 2 ^ p * 2 ^ (l - 1) := Nat.mul_le_mul hm.le (Nat.pow_le_pow_right Nat.two_pos (by omega))
      _ = 2 ^ (p + (l - 1)) := (pow_add 2 _ _).symm
      _ ≤ 2 ^ (p - 1 + l) := Nat.pow_le_pow_right Nat.two_pos (by omega)
      _ = 2 ^ (p - 1) * 2 ^ l := pow_add 2 _ _
      _ ≤ N / 2 ^ l * 2 ^ l := Nat.mul_le_mul_right _ hdigits

/-- A magnitude of at most `2^p` last fraction bits is representable: `2^p` of them are `2^(p-1)` of the next larger. -/
theorem representable_digits {k l : Nat} (hp : 2 ≤ p) (hk : k ≤ 2 ^ p) (hl : g ≤ l) : Representable p g (k * 2 ^ l) := by
  obtain rfl | hlt := hk.eq_or_lt
  case inl =>
    refine ⟨1, p + l, Nat.one_lt_two_pow (by omega), by omega, ?_⟩
    rw [pow_add, Nat.one_mul]
  case inr => exact ⟨k, l, hlt, hl, rfl⟩

/-- The last fraction bit of a magnitude of `k` digits is that of `k` itself. -/
theorem lastBit_digits {k l : Nat} (h0 : k ≠ 0) (hk : k < 2 ^ p) (hl : g ≤ l) (hlead : l = g ∨ 2 ^ (p - 1) ≤ k) :
    lastBit p g (k * 2 ^ l) = l := by
  have hlog : k.log2 < p := (Nat.log2_lt h0).mpr hk
  have hlog' : 2 ^ (p - 1) ≤ k → p - 1 ≤ k.log2 := (Nat.le_log2 h0).mpr
  rw [lastBit, log2_mul_two_pow l h0]
  omega

theorem even_lastDigit {k l : Nat} (hp : 2 ≤ p) (hk : k ≤ 2 ^ p) (hl : g ≤ l) (hlead : l = g ∨ 2 ^ (p - 1) ≤ k)
    (heven : k % 2 = 0) : k * 2 ^ l / 2 ^ lastBit p g (k * 2 ^ l) % 2 = 0 := by
  obtain rfl | hlt := hk.eq_or_lt
  case inl =>
    have hcarry : 2 ^ p * 2 ^ l = 2 ^ (p - 1) * 2 ^ (l + 1) := by
      rw [← pow_add, ← pow_add]
      congr 1
      omega
    have hhalf : 2 ^ (p - 1) < 2 ^ p := Nat.pow_lt_pow_right (by decide) (by omega)
    rw [hcarry, lastBit_digits (Nat.two_pow_pos _).ne' hhalf (by omega) (.inr le_rfl), Nat.mul_div_cancel _ (Nat.two_pow_pos _)]
    exact Nat.two_pow_mod_two_eq_zero.mpr (by omega)
  case inr =>
    by_cases h0 : k = 0
    · subst h0
      rw [Nat.zero_mul, Nat.zero_div]
    · rw [lastBit_digits h0 hlt hl hlead, Nat.mul_div_cancel _ (Nat.two_pow_pos _), heven]

end neighbours

section nearest
variable {p g n d : Nat}

theorem nearestEven_roundedUnits (hp : 2 ≤ p) (hd : 0 < d) : NearestEven p g n d (roundedUnits p g n d) := by
  have hdigits : n / (d * 2 ^ lastBit p g (n / d)) = n / d / 2 ^ lastBit p g (n / d) := (Nat.div_div_eq_div_mul _ _ _).symm
  have hor : roundedDigits p g n d = _ ∨ roundedDigits p g n d = _ := roundEven_eq_or n (d * 2 ^ lastBit p g (n / d))
  rw [hdigits] at hor
  have hlt := div_lastBit_lt (g := g) (N := n / d) (show 0 < p by omega)
  have hle : roundedDigits p g n d ≤ 2 ^ p := by omega
  have hg : g ≤ lastBit p g (n / d) := Nat.le_max_left _ _
  refine ⟨representable_digits hp hle hg, fun q' hq' => ?_⟩
  have hgap : q' * d ≤ n / (d * 2 ^ lastBit p g (n / d)) * (d * 2 ^ lastBit p g (n / d)) ∨
      (n / (d * 2 ^ lastBit p g (n / d)) + 1) * (d * 2 ^ lastBit p g (n / d)) ≤ q' * d := by
    simp only [hdigits, Nat.mul_left_comm _ d, Nat.mul_comm q' d, Nat.mul_le_mul_left_iff hd]
    exact representable_gap hq'
  have hunits : roundEven n (d * 2 ^ lastBit p g (n / d)) * (d * 2 ^ lastBit p g (n / d)) = roundedUnits p g n d * d := by
    rw [roundedUnits, roundedDigits, Nat.mul_assoc, Nat.mul_comm d]
  obtain ⟨hnear, htie⟩ := roundEven_nearest (Nat.mul_pos hd (Nat.two_pow_pos _)) hgap
  rw [hunits] at hnear htie
  push_cast at hnear htie
  refine ⟨hnear, fun heq hne => even_lastDigit hp hle hg ?_ (htie heq fun h => hne (Nat.eq_of_mul_eq_mul_right hd h))⟩
  by_cases hlast : lastBit p g (n / d) = g
  · exact .inl hlast
  · have hlead := le_div_lastBit hlast
    exact .inr (by omega)

end nearest

/-! Overflow: the largest finite magnitude, the limit `2^top`, and the threshold half way between them. -/

section overflow
variable {p g top : Nat}

theorem largest_eq (hp : p ≤ top) : 2 ^ top - 2 ^ (top - p) = (2 ^ p - 1) * 2 ^ (top - p) := by
  rw [Nat.sub_mul, Nat.one_mul, ← pow_add, Nat.add_sub_cancel' hp]

theorem representable_largest (hg : g + p ≤ top) : Representable p g (2 ^ top - 2 ^ (top - p)) :=
  ⟨2 ^ p - 1, top - p, Nat.sub_one_lt (Nat.two_pow_pos p).ne', by omega, largest_eq (by omega)⟩

theorem representable_limit (hp : 0 < p) (hg : g ≤ top) : Representable p g (2 ^ top) :=
  ⟨1, top, Nat.one_lt_two_pow hp.ne', hg, (Nat.one_mul _).symm⟩

theorem le_largest {q : Nat} (hp : p ≤ top) (h : Representable p g q) (hq : q < 2 ^ top) :
    q ≤ 2 ^ top - 2 ^ (top - p) := by
  obtain ⟨m, e, hm, -, rfl⟩ := h
  rw [largest_eq hp]
  obtain hle | hlt := le_or_gt (top - p) e
  case inl =>
    have htop : 2 ^ top = 2 ^ p * 2 ^ (top - p) := by rw [← pow_add, Nat.add_sub_cancel' hp]
    rw [mul_two_pow_of_le m hle] at hq ⊢
    rw [htop] at hq
    exact Nat.mul_le_mul_right _ (Nat.le_sub_one_of_lt (Nat.lt_of_mul_lt_mul_right hq))
  case inr => exact Nat.mul_le_mul (Nat.le_sub_one_of_lt hm) (Nat.pow_le_pow_right Nat.two_pos hlt.le)

theorem odd_lastDigit_largest (hp : 2 ≤ p) (hg : g + p ≤ top) :
    (2 ^ top - 2 ^ (top - p)) / 2 ^ lastBit p g (2 ^ top - 2 ^ (top - p)) % 2 = 1 := by
  have hhalf : 2 ^ p = 2 * 2 ^ (p - 1) := (mul_pow_sub_one (by omega) 2).symm
  have hpos : 0 < 2 ^ (p - 1) := Nat.two_pow_pos _
  rw [largest_eq (by omega), lastBit_digits (by omega) (by omega) (by omega) (.inr (by omega)),
    Nat.mul_div_cancel _ (Nat.two_pow_pos _)]
  omega

/-- R170: a nearest magnitude is beyond the largest finite one from the threshold on; there the tie is decided upward, since the
last fraction bit of the largest finite magnitude is 1. -/
theorem NearestEven.lt_limit_iff {n d q : Nat} (h : NearestEven p g n d q) (hp : 2 ≤ p) (hg : g + p < top) (hd : 0 < d) :
    q < 2 ^ top ↔ n < (2 ^ top - 2 ^ (top - p - 1)) * d := by
  obtain ⟨hrep, hnear⟩ := h
  have hulp : 2 ^ (top - p) = 2 * 2 ^ (top - p - 1) := (mul_pow_sub_one (by omega) 2).symm
  have hle : 2 ^ (top - p) ≤ 2 ^ top := Nat.pow_le_pow_right Nat.two_pos (by omega)
  have hhalf : 0 < 2 ^ (top - p - 1) * d := Nat.mul_pos (Nat.two_pow_pos _) hd
  have hlargest : (2 ^ top - 2 ^ (top - p)) * d + 2 * (2 ^ (top - p - 1) * d) = 2 ^ top * d := by
    rw [← Nat.mul_assoc, ← hulp, ← Nat.add_mul, Nat.sub_add_cancel hle]
  have hthreshold : (2 ^ top - 2 ^ (top - p - 1)) * d + 2 ^ (top - p - 1) * d = 2 ^ top * d := by
    rw [← Nat.add_mul, Nat.sub_add_cancel (by omega)]
  constructor
  case mp =>
    intro hq
    by_contra hn
    obtain ⟨hlimit, htie⟩ := hnear _ (representable_limit (by omega) (by omega : g ≤ top))
    have hqd := Nat.mul_le_mul_right d (le_largest (by omega) hrep hq)
    simp only [← Nat.cast_mul] at hlimit htie
    have heq : q * d = (2 ^ top - 2 ^ (top - p)) * d := by omega
    have hodd := odd_lastDigit_largest hp hg.le
    rw [← Nat.eq_of_mul_eq_mul_right hd heq] at hodd
    have heven := htie (by omega) hq.ne'
    omega
  case mpr =>
    intro hn
    by_contra hq
    obtain ⟨hnear', -⟩ := hnear _ (representable_largest (by omega : g + p ≤ top))
    have hqd := Nat.mul_le_mul_right d (not_lt.mp hq)
    simp only [← Nat.cast_mul] at hnear'
    omega

/-- R170: `roundTo` is rounding to nearest, ties to even. -/
theorem roundsToNearestEven_roundTo (hp : 2 ≤ p) (hg : g + p < top) : RoundsToNearestEven (roundTo p g top) p g top := by
  intro neg n d hd
  have hnear := nearestEven_roundedUnits (g := g) (n := n) hp hd
  have hlimit := hnear.lt_limit_iff hp hg hd
  obtain ⟨hrep, hall⟩ := hnear
  rw [roundTo_eq]
  split
  case isTrue hlt => exact ⟨⟨nofun, fun h => absurd (hlimit.mp hlt) h.not_gt⟩, fun _ => ⟨_, rfl, hrep, hlt, hall⟩⟩
  case isFalse hge => exact ⟨⟨fun _ => not_lt.mp (mt hlimit.mpr hge), fun _ => rfl⟩, fun h => absurd (hlimit.mpr h) hge⟩

end overflow

theorem rn24_eq : rn24 = roundTo 24 925 1202 := rfl

theorem rn53_eq : rn53 = roundTo 53 0 2098 := rfl

theorem rn24_roundsToNearestEven : RoundsToNearestEven rn24 24 925 1202 :=
  rn24_eq ▸ roundsToNearestEven_roundTo (by decide) (by decide)

theorem rn53_roundsToNearestEven : RoundsToNearestEven rn53 53 0 2098 :=
  rn53_eq ▸ roundsToNearestEven_roundTo (by decide) (by decide)

/-- Settles O32. -/
theorem roundingIsNearestEven : Obligations.RoundingIsNearestEven := ⟨rn24_roundsToNearestEven, rn53_roundsToNearestEven⟩

end Sys2Proof.Proofs
end

section
/-! The family of 43_float_arithmetic.md, third part: what rounding to nearest answers for a magnitude that is representable, or
close to one; from it, the exact product (R176) and the one rounding of sum, difference and product (R177). -/

namespace Sys2Proof.Proofs

open Sys2Proof.Machine Sys2Proof.Claims

/-- Half a unit in the last place of a magnitude of `p` digits keeps every other representable magnitude away: below a power of
two they are twice as dense, and no denser. -/
theorem representable_apart {p g v l q : Nat} (hv : 2 ^ (p - 1) ≤ v) (hp : 0 < p) (hq : Representable p g q)
    (hne : q ≠ v * 2 ^ (l + 1)) : q + 2 ^ l ≤ v * 2 ^ (l + 1) ∨ v * 2 ^ (l + 1) + 2 ^ l ≤ q := by
  obtain ⟨m, e, hm, -, rfl⟩ := hq
  have hdouble : v * 2 ^ (l + 1) = 2 * v * 2 ^ l := by rw [pow_succ]; ring
  rw [hdouble] at hne ⊢
  obtain hle | hlt := le_or_gt l e
  case inl =>
    rw [mul_two_pow_of_le m hle] at hne ⊢
    rw [← Nat.add_one_mul, ← Nat.add_one_mul]
    have hne' : m * 2 ^ (e - l) ≠ 2 * v := fun heq => hne (by rw [heq])
    obtain hlt | hgt := Nat.lt_or_gt_of_ne hne'
    · exact .inl (Nat.mul_le_mul_right _ hlt)
    · exact .inr (Nat.mul_le_mul_right _ hgt)
  case inr =>
    refine .inl ?_
    have hpow : 2 ^ p * 2 ^ e ≤ 2 ^ (p - 1) * 2 ^ l := by
      rw [← pow_add, ← pow_add]
      exact Nat.pow_le_pow_right Nat.two_pos (by omega)
    have hpos : 0 < 2 ^ (p - 1) := Nat.two_pow_pos _
    calc m * 2 ^ e + 2 ^ l ≤ 2 ^ p * 2 ^ e + 2 ^ l := by gcongr
      _ ≤ 2 ^ (p - 1) * 2 ^ l + 2 ^ l := by gcongr
      _ = (2 ^ (p - 1) + 1) * 2 ^ l := (Nat.add_one_mul _ _).symm
      _ ≤ 2 * v * 2 ^ l := Nat.mul_le_mul_right _ (by omega)

section rounding
variable {round : Bool → Nat → Nat → Datum} {p g top n d : Nat} (h : RoundsToNearestEven round p g top)

include h

theorem round_cases (neg : Bool) (n : Nat) (hd : 0 < d) :
    round neg n d = .inf neg ∨ ∃ q, round neg n d = .fin neg q ∧ Representable p g q ∧ q < 2 ^ top := by
  obtain ⟨hinf, hfin⟩ := h neg n d hd
  obtain hge | hlt := le_or_gt ((2 ^ top - 2 ^ (top - p - 1)) * d) n
  · exact .inl (hinf.mpr hge)
  · obtain ⟨q, heq, hrep, hq, -⟩ := hfin hlt
    exact .inr ⟨q, heq, hrep, hq⟩

/-- A magnitude below the threshold rounds to the representable one that is strictly nearest. -/
theorem round_eq_of_nearest {q : Nat} (neg : Bool) (hd : 0 < d) (hn : n < (2 ^ top - 2 ^ (top - p - 1)) * d)
    (hq : Representable p g q)
    (hnear : ∀ q', Representable p g q' → q' ≠ q → ((q * d : Int) - n).natAbs < ((q' * d : Int) - n).natAbs) :
    round neg n d = .fin neg q := by
  obtain ⟨q', heq, hrep', -, hnear'⟩ := (h neg n d hd).2 hn
  obtain ⟨hle, -⟩ := hnear' q hq
  rw [heq]
  by_contra hne
  have hlt := hnear q' hrep' fun hq' => hne (by rw [hq'])
  omega

/-- Rounding leaves a representable magnitude as it is. -/
theorem round_exact {m : Nat} (neg : Bool) (hd : 0 < d) (hp : p < top) (hm : Representable p g m) (hlt : m < 2 ^ top) :
    round neg (m * d) d = .fin neg m := by
  have hlargest := le_largest hp.le hm hlt
  have hulp : 2 ^ (top - p - 1) < 2 ^ (top - p) := Nat.pow_lt_pow_right (by decide) (by omega)
  have hle : 2 ^ (top - p) ≤ 2 ^ top := Nat.pow_le_pow_right Nat.two_pos (by omega)
  refine round_eq_of_nearest h neg hd (Nat.mul_lt_mul_of_pos_right (by omega) hd) hm fun q' _ hne => ?_
  have hne' : q' * d ≠ m * d := fun heq => hne (Nat.eq_of_mul_eq_mul_right hd heq)
  simp only [← Nat.cast_mul]
  omega

/-- A magnitude within a quarter of a unit in the last place of one of `p` digits rounds to it. -/
theorem round_eq_of_close {v l q x : Nat} (neg : Bool) (hp : 0 < p) (hv : 2 ^ (p - 1) ≤ v) (hq : q = v * 2 ^ (l + 1))
    (hrep : Representable p g q) (hlt : q < 2 ^ top) (hx : 2 * ((x : Int) - q).natAbs < 2 ^ l) :
    round neg x 1 = .fin neg q := by
  have htop : p + l < top := by
    have hpow : 2 ^ (p + l) < 2 ^ top := calc
      2 ^ (p + l) = 2 ^ (p - 1) * 2 ^ (l + 1) := by
        rw [← pow_add]
        congr 1
        omega
      _ ≤ v * 2 ^ (l + 1) := Nat.mul_le_mul_right _ hv
      _ < 2 ^ top := hq ▸ hlt
    exact (Nat.pow_lt_pow_iff_right (by decide)).mp hpow
  have hlargest := le_largest (by omega) hrep hlt
  have hulp : 2 ^ (top - p) = 2 * 2 ^ (top - p - 1) := (mul_pow_sub_one (by omega) 2).symm
  have hle : 2 ^ (top - p) ≤ 2 ^ top := Nat.pow_le_pow_right Nat.two_pos (by omega)
  have hl : 2 ^ l ≤ 2 ^ (top - p - 1) := Nat.pow_le_pow_right Nat.two_pos (by omega)
  refine round_eq_of_nearest h neg Nat.one_pos (by omega) hrep fun q' hq' hne => ?_
  have hapart := representable_apart hv hp hq' (hq ▸ hne)
  rw [← hq] at hapart
  simp only [Nat.cast_one, Int.mul_one]
  omega

/-- A magnitude below half the limit rounds to a finite one, which is as near as any representable one. -/
theorem exists_round_near {x b q : Nat} (neg : Bool) (hp : 0 < p) (hx : x < 2 ^ b) (hb : b < top) (hq : Representable p g q) :
    ∃ r, round neg x 1 = .fin neg r ∧ ((r : Int) - x).natAbs ≤ ((q : Int) - x).natAbs := by
  have hdouble : 2 ^ top = 2 * 2 ^ (top - 1) := (mul_pow_sub_one (by omega) 2).symm
  have hb' : 2 ^ b ≤ 2 ^ (top - 1) := Nat.pow_le_pow_right Nat.two_pos (by omega)
  have hhalf : 2 ^ (top - p - 1) ≤ 2 ^ (top - 1) := Nat.pow_le_pow_right Nat.two_pos (by omega)
  obtain ⟨r, hr, -, -, hnear⟩ := (h neg x 1 Nat.one_pos).2 (by omega)
  obtain ⟨hle, -⟩ := hnear q hq
  simp only [Nat.cast_one, Int.mul_one] at hle
  exact ⟨r, hr, hle⟩

end rounding

/-! The finite data of Words. -/

/-- The magnitude of a finite datum, in units: `v * 2^e` units of binary32 (R170). -/
theorem canonical_of_datum {w : Word} {neg : Bool} {q : Nat} (h : datum w = .fin neg q) :
    ∃ v e, Canonical v e ∧ q = v * 2 ^ (e + 925) := by
  obtain hnan | ⟨_, rfl⟩ | ⟨_, v, e, hve, rfl⟩ := word_cases w
  · rw [(isNaN_iff w).mp hnan] at h
    exact nomatch h
  · rw [datum_wordOfDatum_inf] at h
    exact nomatch h
  · rw [datum_partsWord hve, Datum.fin.injEq] at h
    exact ⟨v, e, hve, by rw [← h.2, Nat.mul_assoc, pow_add]⟩

section canonical
variable {v e v' e' : Nat} (h : Canonical v e) (h' : Canonical v' e')
include h

theorem representable_canonical : Representable 24 925 (v * 2 ^ (e + 925)) :=
  ⟨v, e + 925, h.significand_lt, Nat.le_add_left _ _, rfl⟩

theorem canonical_lt_limit : v * 2 ^ (e + 925) < 2 ^ 1202 := by
  have he := h.exponent_le
  exact mul_two_pow_lt h.significand_lt (by omega)

include h'

/-- R176: 48 bits and an exponent of at least -298 fit binary64. -/
theorem product_exact (neg : Bool) :
    ∃ m, rn53 neg (v * 2 ^ (e + 925) * (v' * 2 ^ (e' + 925))) (2 ^ 1074) = .fin neg m ∧
      m * 2 ^ 1074 = v * 2 ^ (e + 925) * (v' * 2 ^ (e' + 925)) := by
  have hexp : e + e' + 776 + 1074 = e + 925 + (e' + 925) := by omega
  have hprod : v * v' * 2 ^ (e + e' + 776) * 2 ^ 1074 = v * 2 ^ (e + 925) * (v' * 2 ^ (e' + 925)) := by
    rw [Nat.mul_assoc, ← pow_add, hexp, pow_add, Nat.mul_mul_mul_comm]
  obtain ⟨hv, he, -⟩ := h
  obtain ⟨hv', he', -⟩ := h'
  have hdigits : v * v' < 2 ^ 53 := by
    have hmul := Nat.mul_le_mul hv.le hv'.le
    omega
  have hlt : v * v' * 2 ^ (e + e' + 776) < 2 ^ 2098 := mul_two_pow_lt hdigits (by omega)
  refine ⟨_, ?_, hprod⟩
  rw [← hprod]
  exact round_exact rn53_roundsToNearestEven neg (pow_pos Nat.two_pos 1074) (by decide)
    ⟨_, _, hdigits, Nat.zero_le _, rfl⟩ hlt

section operands
variable {x : Nat} (hx : ((x : Int) - (v * 2 ^ (e + 925) : Nat)).natAbs ≤ v' * 2 ^ (e' + 925))
include hx

/-- R177 where the exponents of the operands are close: binary64 has all bits of a sum or difference of magnitude `x`. -/
theorem rn53_of_close (neg : Bool) (hle : e' ≤ e) (hclose : e ≤ e' + 28) (hdvd : 2 ^ (e' + 925) ∣ x) :
    rn53 neg x 1 = .fin neg x := by
  obtain ⟨hv, he, -⟩ := h
  have hv' := h'.significand_lt
  obtain ⟨c, rfl⟩ := hdvd
  have hshift : v * 2 ^ (e + 925) = v * 2 ^ (e - e') * 2 ^ (e' + 925) := by
    rw [mul_two_pow_of_le v (Nat.add_le_add_right hle 925), Nat.add_sub_add_right]
  have hsum : c * 2 ^ (e' + 925) ≤ (v * 2 ^ (e - e') + v') * 2 ^ (e' + 925) := by
    rw [Nat.add_mul, ← hshift, Nat.mul_comm c]
    omega
  have hdigits : c < 2 ^ 53 := by
    have hv52 : v * 2 ^ (e - e') < 2 ^ 52 := mul_two_pow_lt hv (by omega)
    have hc := Nat.le_of_mul_le_mul_right hsum (Nat.two_pow_pos _)
    omega
  have hexact := round_exact rn53_roundsToNearestEven neg Nat.one_pos (by decide)
    ⟨c, e' + 925, hdigits, Nat.zero_le _, rfl⟩ (mul_two_pow_lt hdigits (by omega))
  rwa [Nat.mul_one, Nat.mul_comm] at hexact

/-- R177 where they are not: `x` and what binary64 rounds it to are both so close to the first operand that binary32 rounds them
to it. -/
theorem narrow_rn53_of_far (neg : Bool) (hfar : e' + 28 < e) : narrow (rn53 neg x 1) = rn24 neg x 1 := by
  have hlimit := canonical_lt_limit h
  have hrep := representable_canonical h
  obtain ⟨hv, he, hlead⟩ := h
  have hsmall : v' * 2 ^ (e' + 925) < 2 ^ (e + 920) := mul_two_pow_lt h'.significand_lt (by omega)
  have hlarge : v * 2 ^ (e + 925) < 2 ^ (e + 949) := mul_two_pow_lt hv (by omega)
  have hquarter : 2 ^ (e + 924) = 2 ^ (e + 920) * 2 ^ 4 := pow_add 2 (e + 920) 4
  have hbound : 2 ^ (e + 949) = 2 ^ (e + 920) * 2 ^ 29 := pow_add 2 (e + 920) 29
  have hbound' : 2 ^ (e + 950) = 2 ^ (e + 920) * 2 ^ 30 := pow_add 2 (e + 920) 30
  generalize hA : v * 2 ^ (e + 925) = A at *
  generalize v' * 2 ^ (e' + 925) = B at *
  have hround {y : Nat} (hy : ((y : Int) - A).natAbs ≤ 2 * B) : rn24 neg y 1 = .fin neg A :=
    round_eq_of_close rn24_roundsToNearestEven (l := e + 924) neg (by decide) (by omega) hA.symm hrep hlimit (by omega)
  have hrep53 : Representable 53 0 A := ⟨v, e + 925, by omega, Nat.zero_le _, hA.symm⟩
  obtain ⟨r, hr, hnear⟩ := exists_round_near (b := e + 950) (x := x) rn53_roundsToNearestEven neg
    (by decide) (by omega) (by omega) hrep53
  rw [hr, hround (y := x) (by omega)]
  exact hround (y := r) (by omega)

theorem narrow_rn53_of_le (neg : Bool) (hle : e' ≤ e) (hdvd : 2 ^ (e' + 925) ∣ x) :
    narrow (rn53 neg x 1) = rn24 neg x 1 := by
  obtain hclose | hfar := le_or_gt e (e' + 28)
  · rw [rn53_of_close h h' hx neg hle hclose hdvd]
    rfl
  · exact narrow_rn53_of_far h h' hx neg hfar

end operands

end canonical

/-! Sum, difference and product of finite data. -/

theorem addDatum_fin (a b : Bool) (p q : Nat) : addDatum (.fin a p) (.fin b q) =
    if key (.fin a p) + key (.fin b q) = 0 then .fin (a && b) 0
    else rn53 (decide (key (.fin a p) + key (.fin b q) < 0)) (key (.fin a p) + key (.fin b q)).natAbs 1 := rfl

theorem mulDatum_fin (a b : Bool) (p q : Nat) :
    mulDatum (.fin a p) (.fin b q) = rn53 (a != b) (p * q) (2 ^ 1074) := rfl

theorem narrow_fin (a : Bool) (p : Nat) : narrow (.fin a p) = rn24 a p 1 := rfl

theorem natAbs_key_fin (a : Bool) (p : Nat) : (key (.fin a p)).natAbs = p := by
  cases a
  · exact Int.natAbs_natCast p
  · exact (Int.natAbs_neg _).trans (Int.natAbs_natCast p)

theorem key_fin_not (a : Bool) (p : Nat) : key (.fin (!a) p) = -key (.fin a p) := by
  cases a
  · rfl
  · exact (Int.neg_neg _).symm

/-- R177: one rounding for a sum, whichever operand has the larger exponent. -/
theorem narrow_addDatum {v e v' e' p q : Nat} (a b : Bool) (h : Canonical v e) (hp : p = v * 2 ^ (e + 925))
    (h' : Canonical v' e') (hq : q = v' * 2 ^ (e' + 925)) (hne : key (.fin a p) + key (.fin b q) ≠ 0) :
    narrow (addDatum (.fin a p) (.fin b q)) =
      rn24 (decide (key (.fin a p) + key (.fin b q) < 0)) (key (.fin a p) + key (.fin b q)).natAbs 1 := by
  have hA := natAbs_key_fin a p
  have hB := natAbs_key_fin b q
  have hdvd {l : Nat} (hl : l ≤ e) (hl' : l ≤ e') : 2 ^ (l + 925) ∣ (key (.fin a p) + key (.fin b q)).natAbs := by
    have hpow {k : Nat} (hk : l ≤ k) : 2 ^ (l + 925) ∣ 2 ^ (k + 925) := Nat.pow_dvd_pow 2 (Nat.add_le_add_right hk 925)
    rw [← Int.natCast_dvd]
    refine dvd_add (Int.natCast_dvd.mpr ?_) (Int.natCast_dvd.mpr ?_)
    · rw [hA, hp]
      exact (hpow hl).mul_left v
    · rw [hB, hq]
      exact (hpow hl').mul_left v'
  rw [addDatum_fin, if_neg hne]
  obtain hle | hle := le_total e' e
  · exact narrow_rn53_of_le h h' (by omega) _ hle (hdvd hle le_rfl)
  · exact narrow_rn53_of_le h' h (by omega) _ hle (hdvd le_rfl hle)

/-- Settles O34. -/
theorem productExactInBinary64 : Obligations.ProductExactInBinary64 := by
  intro wa wb a b p q ha hb
  obtain ⟨v, e, h, hp⟩ := canonical_of_datum ha
  obtain ⟨v', e', h', hq⟩ := canonical_of_datum hb
  rw [ha, hb, hp, hq, mulDatum_fin]
  exact product_exact h h' (a != b)

/-- Settles O35: a difference is the sum with the opposite datum, and the product is exact before it is narrowed. -/
theorem narrowingRoundsOnce : Obligations.NarrowingRoundsOnce := by
  intro wa wb a b p q ha hb
  obtain ⟨v, e, h, hp⟩ := canonical_of_datum ha
  obtain ⟨v', e', h', hq⟩ := canonical_of_datum hb
  rw [ha, hb]
  refine ⟨narrow_addDatum a b h hp h' hq, fun hne => ?_, ?_⟩
  · rw [Int.sub_eq_add_neg, ← key_fin_not] at hne ⊢
    exact narrow_addDatum a (!b) h hp h' hq hne
  · obtain ⟨m, hm, hprod⟩ := product_exact h h' (a != b)
    have hscale := roundTo_mul_right 24 925 1202 (a != b) m 1 (pow_pos Nat.two_pos 1074)
    rw [Nat.one_mul, hprod, ← rn24_eq] at hscale
    rw [mulDatum_fin, hp, hq, hm, hscale, narrow_fin]

end Sys2Proof.Proofs
end

section
/-! The family of 43_float_arithmetic.md, fourth part: the instructions (R174 to R179). What the statements ask of the binary64
result or the quotient is shown of data; the Word written reads back as that datum, narrowed. -/

namespace Sys2Proof.Proofs

open Sys2Proof.Machine Sys2Proof.Claims

/-! The kinds of data, by their constructors. -/

theorem infinite_iff {A : Datum} : infinite A ↔ ∃ a, A = .inf a := by
  rw [infinite, Bool.exists_bool, or_comm]

theorem zero_iff {A : Datum} : zero A ↔ ∃ a, A = .fin a 0 := by
  rw [zero, Bool.exists_bool, or_comm]

theorem finite_iff {A : Datum} : finite A ↔ ∃ a p, A = .fin a p := by
  rw [finite, infinite_iff]
  constructor
  · rintro ⟨hnan, hinf⟩
    obtain _ | a | ⟨a, p⟩ := A
    · exact absurd rfl hnan
    · exact absurd ⟨a, rfl⟩ hinf
    · exact ⟨a, p, rfl⟩
  · rintro ⟨a, p, rfl⟩
    exact ⟨nofun, nofun⟩

theorem not_zero_fin {a : Bool} {p : Nat} : ¬ zero (.fin a p) ↔ p ≠ 0 := by
  rw [zero_iff, not_iff_not]
  constructor
  · rintro ⟨_, heq⟩
    exact (Datum.fin.inj heq).2
  · rintro rfl
    exact ⟨a, rfl⟩

theorem representable_zero : Representable 24 925 0 := ⟨0, 925, Nat.two_pow_pos 24, le_rfl, (Nat.zero_mul _).symm⟩

/-! Sum, product and quotient of data, in the words of the statements. -/

theorem isSum_addDatum (A B : Datum) : IsSum A B (addDatum A B) := by
  simp only [IsSum, infinite_iff, finite_iff]
  refine ⟨?_, ?_, ?_, ?_, ?_, ?_⟩
  · rintro (rfl | rfl)
    · rfl
    · cases A <;> rfl
  · rintro ⟨a, rfl⟩ ⟨b, rfl⟩ hne
    exact if_neg fun h => hne (by rw [h])
  · rintro ⟨a, rfl⟩ hnan hsame
    obtain _ | b | _ := B
    · exact absurd rfl hnan
    · exact if_pos (Datum.inf.inj (hsame ⟨b, rfl⟩))
    · rfl
  · rintro ⟨b, rfl⟩ ⟨a, p, rfl⟩
    rfl
  · rintro ⟨a, p, rfl⟩ ⟨b, q, rfl⟩ h
    exact if_pos h
  · rintro ⟨a, p, rfl⟩ ⟨b, q, rfl⟩ h
    exact if_neg h

theorem negate_eq_opposite (A : Datum) : A.negate = opposite A := by
  cases A <;> rfl

theorem isSum_subDatum (A B : Datum) : IsSum A (opposite B) (subDatum A B) := by
  rw [subDatum, negate_eq_opposite]
  exact isSum_addDatum A (opposite B)

theorem isProduct_mulDatum (A B : Datum) : IsProduct A B (mulDatum A B) := by
  refine ⟨?_, ?_, ?_, ?_⟩
  · rintro (rfl | rfl)
    · rfl
    · cases A <;> rfl
  · simp only [infinite_iff, zero_iff]
    rintro (⟨⟨a, rfl⟩, b, rfl⟩ | ⟨⟨a, rfl⟩, b, rfl⟩) <;> rfl
  · intro hA hB hzA hzB hinf
    obtain _ | a | ⟨a, p⟩ := A
    case nan => exact absurd rfl hA
    case inf =>
      obtain _ | b | ⟨b, q⟩ := B
      case nan => exact absurd rfl hB
      case inf => rfl
      case fin => exact if_neg (not_zero_fin.mp hzB)
    case fin =>
      obtain _ | b | ⟨b, q⟩ := B
      case nan => exact absurd rfl hB
      case inf => exact if_neg (not_zero_fin.mp hzA)
      case fin =>
        simp only [infinite_iff] at hinf
        obtain ⟨_, h⟩ | ⟨_, h⟩ := hinf <;> exact nomatch h
  · simp only [finite_iff]
    rintro ⟨a, p, rfl⟩ ⟨b, q, rfl⟩
    rfl

theorem divDatum_fin (a b : Bool) (p q : Nat) : divDatum (.fin a p) (.fin b q) =
    if q = 0 then (if p = 0 then .nan else .inf (a != b)) else rn24 (a != b) (p * 2 ^ 1074) q := rfl

theorem isQuotient_divDatum (A B : Datum) : IsQuotient A B (divDatum A B) := by
  simp only [IsQuotient, infinite_iff, finite_iff]
  refine ⟨?_, ?_, ?_, ?_, ?_, ?_⟩
  · rw [zero_iff, zero_iff]
    rintro (rfl | rfl | ⟨⟨a, rfl⟩, b, rfl⟩ | ⟨⟨a, rfl⟩, b, rfl⟩)
    · rfl
    · cases A <;> rfl
    · rfl
    · rfl
  · rw [zero_iff]
    rintro ⟨b, rfl⟩ ⟨a, p, rfl⟩ hzA
    rw [divDatum_fin, if_pos rfl, if_neg (not_zero_fin.mp hzA)]
    rfl
  · rintro ⟨a, rfl⟩ ⟨b, q, rfl⟩
    rfl
  · rw [zero_iff]
    rintro ⟨a, rfl⟩ ⟨b, q, rfl⟩ hzB
    have hq := Nat.pos_of_ne_zero (not_zero_fin.mp hzB)
    have hround := round_exact rn24_roundsToNearestEven (a != b) hq (by decide) representable_zero (pow_pos Nat.two_pos 1202)
    rw [divDatum_fin, if_neg hq.ne', Nat.zero_mul]
    rwa [Nat.zero_mul] at hround
  · rintro ⟨b, rfl⟩ ⟨a, p, rfl⟩
    rfl
  · rintro ⟨a, p, rfl⟩ ⟨b, q, rfl⟩ - hzB
    exact if_neg (not_zero_fin.mp hzB)

/-! Data that binary32 has, and the Words that stand for them. -/

/-- The datum is one of binary32 (R170). -/
inductive IsBinary32 : Datum → Prop where
  | nan : IsBinary32 .nan
  | inf (a : Bool) : IsBinary32 (.inf a)
  | fin {q : Nat} (a : Bool) : Representable 24 925 q → q < 2 ^ 1202 → IsBinary32 (.fin a q)

theorem isBinary32_rn24 (neg : Bool) (n : Nat) {d : Nat} (hd : 0 < d) : IsBinary32 (rn24 neg n d) := by
  obtain heq | ⟨q, heq, hrep, hq⟩ := round_cases rn24_roundsToNearestEven neg n hd
  · exact heq ▸ .inf neg
  · exact heq ▸ .fin neg hrep hq

theorem isBinary32_narrow (D : Datum) : IsBinary32 (narrow D) := by
  obtain _ | a | ⟨a, q⟩ := D
  · exact .nan
  · exact .inf a
  · exact isBinary32_rn24 a q Nat.one_pos

theorem isBinary32_divDatum (A B : Datum) : IsBinary32 (divDatum A B) := by
  obtain _ | a | ⟨a, p⟩ := A
  case nan => exact .nan
  case inf =>
    obtain _ | b | _ := B
    · exact .nan
    · exact .nan
    · exact .inf _
  case fin =>
    obtain _ | b | ⟨b, q⟩ := B
    case nan => exact .nan
    case inf => exact .fin _ representable_zero (pow_pos Nat.two_pos 1202)
    case fin =>
      rw [divDatum_fin]
      by_cases hq : q = 0
      · rw [if_pos hq]
        split
        · exact .nan
        · exact .inf _
      · rw [if_neg hq]
        exact isBinary32_rn24 _ _ (Nat.pos_of_ne_zero hq)

/-- The Word written reads back as the datum, a NaN as some NaN (R173). -/
theorem datum_resultWord (op : FloatOp) (wa wb : Word) {D : Datum} (h : IsBinary32 D) :
    datum (resultWord op wa wb D) = D := by
  cases h with
  | nan => exact datum_nanResult op wa wb
  | inf a => exact datum_wordOfDatum_inf a
  | fin a hrep hq => exact datum_wordOfDatum_fin a hrep hq

theorem narrowsTo_of_datum_eq {D : Datum} {r : Word} (h : datum r = narrow D) : NarrowsTo D r := by
  simp only [NarrowsTo, infinite_iff, finite_iff]
  refine ⟨?_, ?_, ?_⟩
  · rintro rfl
    exact (isNaN_iff r).mpr h
  · rintro ⟨a, rfl⟩
    exact h
  · rintro ⟨a, q, rfl⟩
    exact h

/-! Equality of data (R170): the order's key of an infinity is that of a magnitude beyond every finite one. -/

theorem key_inf (a : Bool) : key (.inf a) = key (.fin a (2 ^ 3000)) := by
  have hcast : ((2 ^ 3000 : Nat) : Int) = 2 ^ 3000 := by rw [Nat.cast_pow, Nat.cast_ofNat]
  cases a
  · exact hcast.symm
  · exact congrArg Neg.neg hcast.symm

theorem key_fin_inj {a b : Bool} {q : Nat} (hq : 0 < q) : key (.fin a q) = key (.fin b q) ↔ a = b := by
  cases a <;> cases b <;> simp [key] <;> omega

theorem key_fin_ne {a b : Bool} {p q : Nat} (h : p ≠ q) : key (.fin a p) ≠ key (.fin b q) := by
  intro heq
  rw [← natAbs_key_fin a p, heq, natAbs_key_fin] at h
  exact h rfl

theorem ieeeEq_iff {A B : Datum} (hA : A ≠ .nan) (hB : B ≠ .nan) : ieeeEq A B ↔ key A = key B :=
  ⟨fun h => h.2.2, fun h => ⟨hA, hB, h⟩⟩

theorem eqIeee_iff {A B : Datum} (hA : magnitude A < 2 ^ 3000) (hB : magnitude B < 2 ^ 3000) :
    A.eqIeee B = true ↔ ieeeEq A B := by
  by_cases hnA : A = .nan
  case pos =>
    rw [hnA, Datum.eqIeee_nan_left]
    exact ⟨nofun, fun h => absurd rfl h.1⟩
  by_cases hnB : B = .nan
  case pos =>
    rw [hnB, Datum.eqIeee_nan_right]
    exact ⟨nofun, fun h => absurd rfl h.2.1⟩
  rw [ieeeEq_iff hnA hnB]
  cases A with
  | nan => exact absurd rfl hnA
  | inf a =>
    rw [key_inf]
    cases B with
    | nan => exact absurd rfl hnB
    | inf b =>
      rw [key_inf, key_fin_inj (pow_pos Nat.two_pos 3000)]
      exact beq_iff_eq
    | fin b q => exact ⟨nofun, fun h => absurd h (key_fin_ne (ne_of_gt hB))⟩
  | fin a p =>
    cases B with
    | nan => exact absurd rfl hnB
    | inf b =>
      rw [key_inf]
      exact ⟨nofun, fun h => absurd h (key_fin_ne (ne_of_lt hA))⟩
    | fin b q => exact beq_iff_eq

theorem magnitude_roundTo_lt (p g top : Nat) (neg : Bool) (n d : Nat) : magnitude (roundTo p g top neg n d) < 2 ^ top := by
  rw [roundTo_eq]
  split
  case isTrue h => exact h
  case isFalse => exact Nat.two_pow_pos top

theorem magnitude_rn53_lt (neg : Bool) (n d : Nat) : magnitude (rn53 neg n d) < 2 ^ 3000 := by
  rw [rn53_eq]
  exact (magnitude_roundTo_lt 53 0 2098 neg n d).trans (pow_lt_pow_right₀ Nat.one_lt_two (by decide))

theorem magnitude_addDatum_lt (A B : Datum) : magnitude (addDatum A B) < 2 ^ 3000 := by
  have hzero : 0 < 2 ^ 3000 := pow_pos Nat.two_pos 3000
  obtain _ | a | ⟨a, p⟩ := A
  case nan => exact hzero
  case inf =>
    obtain _ | b | _ := B
    · exact hzero
    · rw [addDatum]
      split <;> exact hzero
    · exact hzero
  case fin =>
    obtain _ | b | ⟨b, q⟩ := B
    · exact hzero
    · exact hzero
    · rw [addDatum_fin]
      split
      · exact hzero
      · exact magnitude_rn53_lt _ _ _

theorem magnitude_mulDatum_lt (A B : Datum) : magnitude (mulDatum A B) < 2 ^ 3000 := by
  have hzero : 0 < 2 ^ 3000 := pow_pos Nat.two_pos 3000
  obtain _ | a | ⟨a, p⟩ := A
  case nan => exact hzero
  case inf =>
    obtain _ | b | ⟨b, q⟩ := B
    · exact hzero
    · exact hzero
    · rw [mulDatum]
      split <;> exact hzero
  case fin =>
    obtain _ | b | ⟨b, q⟩ := B
    · exact hzero
    · rw [mulDatum]
      split <;> exact hzero
    · rw [mulDatum_fin]
      exact magnitude_rn53_lt _ _ _

theorem magnitude_lt_of_isBinary32 {D : Datum} (h : IsBinary32 D) : magnitude D < 2 ^ 3000 := by
  cases h with
  | nan => exact pow_pos Nat.two_pos 3000
  | inf a => exact pow_pos Nat.two_pos 3000
  | fin a hrep hq => exact hq.trans (pow_lt_pow_right₀ Nat.one_lt_two (by decide))

/-! The shape of `FADD`, `FSUB` and `FMUL` (R171 to R173). -/

section shape
variable {op : Nat} {i : Reg → Reg → Reg → Instr} {isD : Datum → Datum → Datum → Prop}

/-- R172: `FO`, then `Z` and `S`. -/
theorem floatResult_flags (o : FloatOp) (s : State) (wa wb : Word) (D : Datum) :
    FlagsBecome s (s.setFlags (floatResult o wa wb D s.flags).2)
      (floatResultFlags (floatResult o wa wb D s.flags).1 ++ [(11, !D.eqIeee (datum (floatResult o wa wb D s.flags).1))]) := by
  have hFO (r : Word) : FlagsBecome s (s.setFlags (floatOverflowFlag s.flags D r)) [(11, !D.eqIeee (datum r))] := by
    constructor <;> simp +contextual [getFlag_floatOverflowFlag]
  exact flagsBecome_append (hFO _) (flagsBecome_floatFlags rfl) (by simp [floatResultFlags])

/-- R171, R173: where the Word written is that of `D` narrowed, the shape of R140 gives all that is asked of the three. -/
theorem floatThreeRegister_of_datum (o : FloatOp) (D : Datum → Datum → Datum) (hisD : ∀ A B, isD A B (D A B))
    (hsmall : ∀ A B, magnitude (D A B) < 2 ^ 3000)
    (h : ThreeRegister op i (fun wa wb r => r = resultWord o wa wb (narrow (D (datum wa) (datum wb))))
      (fun wa wb r => floatResultFlags r ++ [(11, !(D (datum wa) (datum wb)).eqIeee (datum r))])) :
    FloatThreeRegister op i isD := by
  obtain ⟨hcode, hfirst, hsecond, hdest, hrun⟩ := h
  refine ⟨hcode, hfirst, hsecond, hdest, fun s d a b hwf ha hb hd => ?_⟩
  obtain ⟨t, r, hexec, hr, hstored⟩ := hrun s d a b hwf ha hb hd
  have hbinary32 := isBinary32_narrow (D (datum (s.val a)) (datum (s.val b)))
  have hread : datum r = narrow (D (datum (s.val a)) (datum (s.val b))) := by
    rw [hr, datum_resultWord _ _ _ hbinary32]
  refine ⟨t, _, r, _, hexec, hisD _ _, narrowsTo_of_datum_eq hread, ?_, hstored⟩
  rw [Bool.not_eq_true', ← Bool.not_eq_true, eqIeee_iff (hsmall _ _) (hread ▸ magnitude_lt_of_isBinary32 hbinary32)]

end shape

/-- Settles O27. -/
theorem faddResult : Obligations.FaddResult :=
  floatThreeRegister_of_datum .fadd addDatum isSum_addDatum magnitude_addDatum_lt
    (threeRegister_of_binaryAlu aluFadd fun s wa wb => ⟨rfl, floatResult_flags .fadd s wa wb _⟩)

/-- Settles O28. -/
theorem fsubResult : Obligations.FsubResult :=
  floatThreeRegister_of_datum .fsub subDatum isSum_subDatum (fun A B => magnitude_addDatum_lt A B.negate)
    (threeRegister_of_binaryAlu aluFsub fun s wa wb => ⟨rfl, floatResult_flags .fsub s wa wb _⟩)

/-- Settles O29. -/
theorem fmulResult : Obligations.FmulResult :=
  floatThreeRegister_of_datum .fmul mulDatum isProduct_mulDatum magnitude_mulDatum_lt
    (threeRegister_of_binaryAlu aluFmul fun s wa wb => ⟨rfl, floatResult_flags .fmul s wa wb _⟩)

/-- R172, R178: `DZ`, then `Z` and `S`. -/
theorem aluFdiv_flags (s : State) (wa wb : Word) :
    FlagsBecome s (s.setFlags (aluFdiv wa wb s.flags).2)
      (floatResultFlags (aluFdiv wa wb s.flags).1 ++ [(12, decide (wb.toNat % 2 ^ 31 = 0))]) := by
  have hDZ : FlagsBecome s (s.setFlags (divZeroFlag s.flags ((datum wb).eqIeee (.fin false 0))))
      [(12, decide (wb.toNat % 2 ^ 31 = 0))] := by
    rw [← eqIeee_zero_eq_decide]
    constructor <;> simp +contextual [getFlag_divZeroFlag]
  exact flagsBecome_append hDZ (flagsBecome_floatFlags rfl) (by simp [floatResultFlags])

/-- Settles O30: the quotient is rounded to binary32 at once, so the Word written reads back as it is. -/
theorem fdivResult : Obligations.FdivResult := by
  refine threeRegister_of_binaryAlu aluFdiv fun s wa wb => ⟨?_, aluFdiv_flags s wa wb⟩
  have hread := datum_resultWord .fdiv wa wb (isBinary32_divDatum (datum wa) (datum wb))
  exact ⟨_, isQuotient_divDatum _ _, fun hnan => (isNaN_iff _).mpr (hread.trans hnan), fun _ => hread⟩

/-! Negation (R179). -/

/-- The sign bit is none of bits 30..0. -/
theorem flipSign_toNat_mod (w : Word) : (w ^^^ 0x80000000).toNat % 2 ^ 31 = w.toNat % 2 ^ 31 := by
  rw [BitVec.toNat_xor, Nat.xor_mod_two_pow]
  exact Nat.xor_zero _

theorem flipSign_getLsbD (w : Word) : (w ^^^ 0x80000000).getLsbD 31 = !w.getLsbD 31 := by
  rw [BitVec.getLsbD_xor]
  exact Bool.xor_true _

theorem flipSign_isNaN (w : Word) : isNaN (w ^^^ 0x80000000) = isNaN w := by
  have hexp : (0x80000000 : Word).extractLsb' 23 8 = 0#8 := rfl
  have hfrac : (0x80000000 : Word).extractLsb' 0 23 = 0#23 := rfl
  rw [isNaN, isNaN, BitVec.extractLsb'_xor, BitVec.extractLsb'_xor, hexp, hfrac, BitVec.xor_zero, BitVec.xor_zero]

/-- Settles O31. -/
theorem fnegResult : Obligations.FnegResult :=
  oneRegister_of_unaryAlu aluFneg fun s wa =>
    ⟨⟨flipSign_toNat_mod wa, flipSign_getLsbD wa, flipSign_isNaN wa⟩, flagsBecome_floatFlags rfl⟩

end Sys2Proof.Proofs
end

section
/-! The family of 44_compare_branch.md: the three compares (R190 to R193), `JMP` (R194 to R200) and the 18 conditional jumps
(R201 to R219). A compare is told by the two relations whose values its flags take, a jump by its condition; what the jumps test
after a compare follows from the two. -/

namespace Sys2Proof.Proofs

open Sys2Proof.Machine Sys2Proof.Claims

/-! The order of data (R170), beside `eqIeee_iff`. -/

theorem isBinary32_datum (w : Word) : IsBinary32 (datum w) := by
  cases hdatum : datum w with
  | nan => exact .nan
  | inf a => exact .inf a
  | fin a q =>
    obtain ⟨v, e, h, hq⟩ := canonical_of_datum hdatum
    rw [hq]
    exact .fin a (representable_canonical h) (canonical_lt_limit h)

theorem magnitude_datum_lt (w : Word) : magnitude (datum w) < 2 ^ 3000 := magnitude_lt_of_isBinary32 (isBinary32_datum w)

section keys
variable {a b : Bool} {p q : Nat}

/-- The datum of the larger magnitude is the smaller one exactly where it is negative. -/
theorem key_fin_lt_of_magnitude_gt (h : q < p) : key (.fin a p) < key (.fin b q) ↔ a = true := by
  cases a <;> cases b <;> simp [key] <;> omega

theorem key_fin_lt_of_magnitude_lt (h : p < q) : key (.fin a p) < key (.fin b q) ↔ b = false := by
  cases a <;> cases b <;> simp [key] <;> omega

theorem key_fin_lt_of_magnitude_eq (h : 0 < q) : key (.fin a q) < key (.fin b q) ↔ (a && !b) = true := by
  cases a <;> cases b <;> simp [key]
  omega

end keys

section order
variable {A B : Datum}

theorem ieeeLt_iff (hA : A ≠ .nan) (hB : B ≠ .nan) : ieeeLt A B ↔ key A < key B :=
  ⟨fun ⟨_, _, hkey⟩ => hkey, fun hkey => ⟨hA, hB, hkey⟩⟩

theorem ltIeee_iff (hA : magnitude A < 2 ^ 3000) (hB : magnitude B < 2 ^ 3000) : A.ltIeee B = true ↔ ieeeLt A B := by
  by_cases hnA : A = .nan
  case pos =>
    rw [hnA, Datum.ltIeee_nan_left]
    exact ⟨nofun, fun ⟨hne, _⟩ => absurd rfl hne⟩
  by_cases hnB : B = .nan
  case pos =>
    rw [hnB, Datum.ltIeee_nan_right]
    exact ⟨nofun, fun ⟨_, hne, _⟩ => absurd rfl hne⟩
  rw [ieeeLt_iff hnA hnB]
  cases A with
  | nan => exact absurd rfl hnA
  | inf a =>
    rw [key_inf]
    cases B with
    | nan => exact absurd rfl hnB
    | inf b =>
      rw [key_inf, key_fin_lt_of_magnitude_eq (pow_pos Nat.two_pos 3000)]
      rfl
    | fin b q => exact (key_fin_lt_of_magnitude_gt hB).symm
  | fin a p =>
    cases B with
    | nan => exact absurd rfl hnB
    | inf b =>
      have hlt : p < 2 ^ 3000 := hA
      rw [key_inf, key_fin_lt_of_magnitude_lt hlt]
      exact iff_of_eq (Bool.not_eq_true' b)
    | fin b q => exact decide_eq_true_iff

/-- Of two data that are not NaN one is less, or they are equal; a NaN is in neither relation to any datum. -/
theorem ieeeLt_or_nan_iff : (ieeeLt A B ∨ A = .nan ∨ B = .nan) ↔ ¬ ieeeEq A B ∧ ¬ ieeeLt B A := by
  by_cases hnan : A = .nan ∨ B = .nan
  case pos =>
    refine ⟨fun _ => ⟨fun ⟨hA, hB, _⟩ => ?_, fun ⟨hB, hA, _⟩ => ?_⟩, fun _ => .inr hnan⟩ <;>
      exact hnan.elim hA hB
  case neg =>
    obtain ⟨hA, hB⟩ := not_or.mp hnan
    rw [or_iff_left hnan, ieeeLt_iff hA hB, ieeeEq_iff hA hB, ieeeLt_iff hB hA]
    omega

end order

theorem eqIeee_datum_iff (wa wb : Word) : (datum wa).eqIeee (datum wb) = true ↔ ieeeEq (datum wa) (datum wb) :=
  eqIeee_iff (magnitude_datum_lt wa) (magnitude_datum_lt wb)

theorem ltIeee_datum_iff (wa wb : Word) : (datum wa).ltIeee (datum wb) = true ↔ ieeeLt (datum wa) (datum wb) :=
  ltIeee_iff (magnitude_datum_lt wa) (magnitude_datum_lt wb)

/-! The shape of a compare (R190), each outcome of the checks once. -/

section compares
variable {s t : State} {f : Word → Word → Half → Half} {a b : Reg}

theorem compareOp_inRange (ha : wordInRange (s.reg a)) (hb : wordInRange (s.reg b)) :
    compareOp f a b s = .next ((s.setFlags (f (s.val a) (s.val b) s.flags)).advance) := by
  rw [compareOp, withVal_inRange ha, withVal_inRange hb]

theorem compareOp_firstSource (ha : ¬ wordInRange (s.reg a)) :
    compareOp f a b s = .next (s.takeFault .memBounds (s.reg a)) := by
  rw [compareOp, withVal_outOfRange ha]

theorem compareOp_secondSource (ha : wordInRange (s.reg a)) (hb : ¬ wordInRange (s.reg b)) :
    compareOp f a b s = .next (s.takeFault .memBounds (s.reg b)) := by
  rw [compareOp, withVal_inRange ha, withVal_outOfRange hb]

theorem flagsBecome_compareFlags {e : Nat} {equal greater : Bool} (he : e + 1 < 16)
    (ht : t.flags = compareFlags s.flags e equal greater) : FlagsBecome s t [(e, equal), (e + 1, greater)] := by
  have hflag (k : Nat) : getFlag t.flags k = if k = e + 1 then greater else if k = e then equal else getFlag s.flags k := by
    rw [ht, getFlag_compareFlags _ _ _ _ _ he]
  constructor <;> simp +contextual [hflag]

variable {op e g : Nat} {i : Reg → Reg → Instr} {equal greater : Word → Word → Bool}

/-- R190: a compare is its row of the encoding (R81, R87), the pair of flags that begins at `e`, and the two relations that those
take. That the row and the dispatcher name them is read off their definitions at each use. -/
theorem compare_of_compareFlags (e : Nat) (equal greater : Word → Word → Bool)
    (hexec : ∀ a b s, exec (i a b) s = compareOp (fun wa wb f => compareFlags f e (equal wa wb) (greater wa wb)) a b s := by
      intros; rfl)
    (he : e + 1 < 16 := by decide) (hop : op < 256 := by decide)
    (hcode : ∀ a b, (i a b).opcode = BitVec.ofNat 8 op := by intros; rfl)
    (hslots : ∀ w a b, HasOperands w (i a b) ↔ s2 w = a ∧ s3 w = b := by intros; rfl) :
    Compare op i (fun wa wb => [(e, equal wa wb), (e + 1, greater wa wb)]) := by
  refine ⟨encodesA_of_hasOperands hop (fun _ => hcode) fun f1 f2 f3 => ?_, fun s a b ha => ?_, fun s a b ha hb => ?_,
    fun s a b ha hb => ?_⟩
  · exact (hslots _ f2 f3).mpr ⟨s2_formatA _ f1 f2 f3, s3_formatA _ f1 f2 f3⟩
  · exact (hexec a b s).trans (compareOp_firstSource ha)
  · exact (hexec a b s).trans (compareOp_secondSource ha hb)
  · exact ⟨_, (hexec a b s).trans (compareOp_inRange ha hb), flagsBecome_compareFlags he rfl, fun _ => rfl, fun _ => rfl,
      ⟨rfl, rfl, rfl, rfl⟩, rfl⟩

/-- What the two flags are in whichever state a compare in range completes. -/
theorem flags_of_compare (h : Compare op i (fun wa wb => [(e, equal wa wb), (g, greater wa wb)]))
    (ha : wordInRange (s.reg a)) (hb : wordInRange (s.reg b)) (hexec : exec (i a b) s = .next t) :
    getFlag t.flags e = equal (s.val a) (s.val b) ∧ getFlag t.flags g = greater (s.val a) (s.val b) := by
  obtain ⟨-, -, -, hrun⟩ := h
  obtain ⟨u, hu, ⟨hset, -⟩, -⟩ := hrun s a b ha hb
  obtain rfl : t = u := Host.Outcome.next.inj (hexec.symm.trans hu)
  exact ⟨hset (e, _) (by simp), hset (g, _) (by simp)⟩

end compares

/-- R193, the flags as the model computes them. -/
theorem fcmp_compare : Compare 41 .fcmp (fun wa wb =>
    [(6, (datum wa).eqIeee (datum wb)), (7, (datum wb).ltIeee (datum wa))]) :=
  compare_of_compareFlags 6 (fun wa wb => (datum wa).eqIeee (datum wb)) fun wa wb => (datum wb).ltIeee (datum wa)

/-! What the six conditions of R201 say, where the flags tell equal and greater. -/

/-- The third relation, less, is what is neither equal nor greater. -/
theorem six_conditions {E G : Bool} {eq gt lt ge le : Prop} (hE : E = true ↔ eq) (hG : G = true ↔ gt)
    (hlt : lt ↔ ¬ eq ∧ ¬ gt) (hge : ge ↔ eq ∨ gt) (hle : le ↔ ¬ gt) :
    (E = true ↔ eq) ∧ (G = true ↔ gt) ∧ ((!E && !G) = true ↔ lt) ∧ ((!E) = true ↔ ¬ eq) ∧ ((E || G) = true ↔ ge) ∧
      ((!G) = true ↔ le) := by
  rw [hlt, hge, hle, ← hE, ← hG]
  simp

/-- So for the integers, signed or unsigned. -/
theorem six_conditions_of_linearOrder {α : Type} [LinearOrder α] {E G : Bool} {x y : α} (hE : E = true ↔ x = y)
    (hG : G = true ↔ x > y) :
    (E = true ↔ x = y) ∧ (G = true ↔ x > y) ∧ ((!E && !G) = true ↔ x < y) ∧ ((!E) = true ↔ x ≠ y) ∧
      ((E || G) = true ↔ x ≥ y) ∧ ((!G) = true ↔ x ≤ y) := by
  have hlt : x < y ↔ ¬ x = y ∧ ¬ x > y := by rw [not_lt, and_comm, lt_iff_le_and_ne]
  have hge : x ≥ y ↔ x = y ∨ x > y := by rw [ge_iff_le, le_iff_eq_or_lt, eq_comm]
  exact six_conditions hE hG hlt hge not_lt.symm

/-! Jumps: the target of each mode (R194 to R199), then the shapes of R200 and R201. -/

section jumps
variable {s : State} {op e g : Nat} {j : Target → Instr} {taken : State → Prop} {c : Bool → Bool → Bool}

theorem jumpTo_of_resolves {t : Target} {p : Half} (h : Resolves s t p) : jumpTo t s = .next (s.setPc p) := by
  cases t with
  | abs addr =>
    obtain rfl : p = addr := h
    rfl
  | ind addr =>
    obtain ⟨haddr, hp⟩ := h
    obtain rfl : p = lo (s.word addr) := BitVec.eq_of_toNat_eq (hp.trans (lo_toNat _).symm)
    simp only [jumpTo, withTarget, memRead_of_inRange _ haddr]
    rfl
  | sum ra rb =>
    obtain rfl : p = s.reg ra + s.reg rb := BitVec.eq_of_toNat_eq (h.trans (BitVec.toNat_add _ _).symm)
    rfl
  | rel off =>
    have hp : (p.toNat : Int) = ((s.pc.toNat : Int) + off.toInt) % 2 ^ 16 := h
    obtain rfl : p = s.pc + off := by
      apply BitVec.eq_of_toNat_eq
      rw [BitVec.toInt_eq_toNat_cond] at hp
      rw [BitVec.toNat_add]
      omega
    rfl
  | illegal mode => exact False.elim h

/-- R196: an indirect jump reads a whole Word. -/
theorem jumpTo_ind_outOfRange {addr : Half} (h : 32766 < addr.toNat) :
    jumpTo (.ind addr) s = .next (s.takeFault .memBounds addr) := by
  simp only [jumpTo, withTarget, memRead_of_not_inRange _ (not_le.mpr h), raise_eq]

/-- R199 -/
theorem jumpTo_illegal (mode : Slot) :
    jumpTo (.illegal mode) s = .next (s.takeFault .illegalOperand (mode.setWidth 16)) := rfl

theorem takesJump_of_jumpTo (h : ∀ s t, taken s → exec (j t) s = jumpTo t s) : TakesJump j taken :=
  ⟨fun s t _ hs ht => (h s t hs).trans (jumpTo_of_resolves ht),
    fun s addr hs haddr => (h s (.ind addr) hs).trans (jumpTo_ind_outOfRange haddr),
    fun s mode hs => (h s (.illegal mode) hs).trans (jumpTo_illegal mode)⟩

/-- R82, R84: four of the five kinds of target are told by `s1` and `a16`, the sum by the slots. -/
theorem encodesJ_of_hasTarget (hop : op < 256) (hcode : ∀ t, (j t).opcode = BitVec.ofNat 8 op)
    (htarget : ∀ w t, HasOperands w (j t) ↔ HasTarget w t) : EncodesJ op j := by
  have hB {m : Slot} {v : Half} {t : Target} (ht : HasTarget (formatB (BitVec.ofNat 8 op) m v) t) :
      decode (wordB op m v) = .ok (j t) := by
    rw [wordB_eq_formatB hop]
    exact decode_of_hasOperands ((opField_formatB _ _ _).trans (hcode t).symm) ((htarget _ t).mpr ht)
  refine ⟨fun v => hB ?abs, fun v => hB ?ind, fun f2 f3 => ?sum, fun v => hB ?rel, fun m v hm => hB ?illegal⟩
  case abs | ind | rel => exact ⟨s1_formatB _ _ v, a16_formatB _ _ v⟩
  case sum =>
    rw [wordA_eq_formatA hop]
    exact decode_of_hasOperands ((opField_formatA _ _ _ _).trans (hcode _).symm)
      ((htarget _ (.sum f2 f3)).mpr ⟨s1_formatA _ 2 f2 f3, s2_formatA _ 2 f2 f3, s3_formatA _ 2 f2 f3⟩)
  case illegal => exact ⟨s1_formatB _ m v, hm⟩

/-- R201: a conditional jump is its row of the encoding (R95) and its condition, both read off their definitions at each use. -/
theorem conditionalJump_of_jumpIf
    (hexec : ∀ t s, exec (j t) s = jumpIf (c (getFlag s.flags e) (getFlag s.flags g)) t s := by intros; rfl)
    (hop : op < 256 := by decide) (hcode : ∀ t, (j t).opcode = BitVec.ofNat 8 op := by intros; rfl)
    (htarget : ∀ w t, HasOperands w (j t) ↔ HasTarget w t := by intros; rfl) : ConditionalJump op j e g c := by
  refine ⟨encodesJ_of_hasTarget hop hcode htarget, takesJump_of_jumpTo fun s t hs => ?_, fun s t hs => ?_⟩
  · rw [hexec, jumpIf, if_pos hs]
  · rw [hexec, hs]
    rfl

end jumps

/-! The obligations. -/

/-- Settles O36. -/
theorem integerCompareFlags : Obligations.IntegerCompareFlags :=
  ⟨compare_of_compareFlags 2 (fun wa wb => decide (wa.toInt = wb.toInt)) fun wa wb => decide (wa.toInt > wb.toInt),
    compare_of_compareFlags 4 (fun wa wb => decide (wa.toNat = wb.toNat)) fun wa wb => decide (wa.toNat > wb.toNat)⟩

/-- Settles O37: the model's relations on data are those of IEEE 754. -/
theorem fcmpFlags : Obligations.FcmpFlags := by
  obtain ⟨hcode, hfirst, hsecond, hrun⟩ := fcmp_compare
  refine ⟨hcode, hfirst, hsecond, fun s a b ha hb => ?_⟩
  obtain ⟨t, hexec, hframe⟩ := hrun s a b ha hb
  exact ⟨t, _, _, hexec, eqIeee_datum_iff _ _, ltIeee_datum_iff _ _, hframe⟩

/-- Settles O38. -/
theorem jmpTakesTarget : Obligations.JmpTakesTarget :=
  ⟨encodesJ_of_hasTarget (by decide) (fun _ => rfl) fun _ _ => .rfl, takesJump_of_jumpTo fun _ _ _ => rfl⟩

/-- Settles O39: after `ICMP` the flags are equal and greater of the signed readings. -/
theorem signedConditionalJumps : Obligations.SignedConditionalJumps := by
  refine ⟨⟨conditionalJump_of_jumpIf, conditionalJump_of_jumpIf, conditionalJump_of_jumpIf, conditionalJump_of_jumpIf,
    conditionalJump_of_jumpIf, conditionalJump_of_jumpIf⟩, fun s t a b ha hb hexec => ?_⟩
  obtain ⟨hicmp, -⟩ := integerCompareFlags
  obtain ⟨hE, hG⟩ := flags_of_compare hicmp ha hb hexec
  exact six_conditions_of_linearOrder (by rw [hE, decide_eq_true_iff]) (by rw [hG, decide_eq_true_iff])

/-- Settles O40: after `UCMP`, of the unsigned readings. -/
theorem unsignedConditionalJumps : Obligations.UnsignedConditionalJumps := by
  refine ⟨⟨conditionalJump_of_jumpIf, conditionalJump_of_jumpIf, conditionalJump_of_jumpIf, conditionalJump_of_jumpIf,
    conditionalJump_of_jumpIf, conditionalJump_of_jumpIf⟩, fun s t a b ha hb hexec => ?_⟩
  obtain ⟨-, hucmp⟩ := integerCompareFlags
  obtain ⟨hE, hG⟩ := flags_of_compare hucmp ha hb hexec
  exact six_conditions_of_linearOrder (by rw [hE, decide_eq_true_iff]) (by rw [hG, decide_eq_true_iff])

/-- Settles O41: unordered data are neither equal nor greater, so they fall to less. -/
theorem floatConditionalJumps : Obligations.FloatConditionalJumps := by
  refine ⟨⟨conditionalJump_of_jumpIf, conditionalJump_of_jumpIf, conditionalJump_of_jumpIf, conditionalJump_of_jumpIf,
    conditionalJump_of_jumpIf, conditionalJump_of_jumpIf⟩, fun s t a b ha hb hexec => ?_⟩
  obtain ⟨hE, hG⟩ := flags_of_compare fcmp_compare ha hb hexec
  exact six_conditions (by rw [hE, eqIeee_datum_iff]) (by rw [hG, ltIeee_datum_iff]) ieeeLt_or_nan_iff .rfl .rfl

end Sys2Proof.Proofs
end

section
/-! The family of 45_bitwise.md: `AND`, `OR`, `XOR` and `NOT` (R230 to R234). Their ALU functions are one shape, a result Word under
R230, so each is told by what its operation on Words does to a bit. -/

namespace Sys2Proof.Proofs

open Sys2Proof.Machine Sys2Proof.Claims

/-! A result with the standard integer flags (R230), of two operands and of one. -/

theorem binaryAlu_logicResult {op : Word → Word → Word} {rel : Word → Word → Word → Prop} (h : ∀ wa wb, rel wa wb (op wa wb)) :
    BinaryAlu (fun wa wb f => logicResult (op wa wb) f) rel fun _ _ r => integerFlags r :=
  fun _ wa wb => ⟨h wa wb, flagsBecome_integerFlags rfl⟩

theorem unaryAlu_logicResult {op : Word → Word} {rel : Word → Word → Prop} (h : ∀ wa, rel wa (op wa)) :
    UnaryAlu (fun wa f => logicResult (op wa) f) rel fun _ r => integerFlags r :=
  fun _ wa => ⟨h wa, flagsBecome_integerFlags rfl⟩

/-! Inversion (R234). -/

/-- The rule's mask has every bit set, so `xor` with it is the complement. -/
theorem xor_mask_eq_not (w : Word) : w ^^^ 0xFFFFFFFF = ~~~w := by
  have hmask : (0xFFFFFFFF : Word) = BitVec.allOnes 32 := rfl
  rw [hmask, BitVec.xor_allOnes]

theorem xor_mask_getLsbD (w : Word) {i : Nat} (hi : i < 32) : (w ^^^ 0xFFFFFFFF).getLsbD i = !w.getLsbD i := by
  rw [xor_mask_eq_not, BitVec.getLsbD_not, decide_eq_true hi, Bool.true_and]

theorem xor_mask_toNat (w : Word) : (w ^^^ 0xFFFFFFFF).toNat = 2 ^ 32 - 1 - w.toNat := by
  rw [xor_mask_eq_not, BitVec.toNat_not]

/-! The obligations. -/

/-- Settles O42: each operation on Words is the one on bits, position by position. -/
theorem logicResult : Obligations.LogicResult :=
  ⟨threeRegister_of_binaryAlu _ (binaryAlu_logicResult (op := (· &&& ·)) fun _ _ _ _ => BitVec.getLsbD_and),
    threeRegister_of_binaryAlu _ (binaryAlu_logicResult (op := (· ||| ·)) fun _ _ _ _ => BitVec.getLsbD_or),
    threeRegister_of_binaryAlu _ (binaryAlu_logicResult (op := (· ^^^ ·)) fun _ _ _ _ => BitVec.getLsbD_xor)⟩

/-- Settles O43. -/
theorem notResult : Obligations.NotResult :=
  oneRegister_of_unaryAlu _ (unaryAlu_logicResult (op := (· ^^^ 0xFFFFFFFF)) fun wa =>
    ⟨fun _ hi => xor_mask_getLsbD wa hi, xor_mask_toNat wa⟩)

end Sys2Proof.Proofs
end

section
/-! The family of 46_flag_transfer.md: `GETF` and `SETF` (R240 to R242). Both check the flag index before the address of their register
(R240, R283); then one is a store that sets no flag, the other a flag assignment that stores nothing. -/

namespace Sys2Proof.Proofs

open Sys2Proof.Machine Sys2Proof.Claims

section flagTransfer
variable {s t : State} {r : Reg} {k : Half}

/-! The flag assigned. -/

/-- R29, in the words of the statements. -/
theorem flagsBecome_setFlag {n : Nat} {b : Bool} (hn : n < 16) (ht : t.flags = setFlag s.flags n b) :
    FlagsBecome s t [(n, b)] := by
  refine ⟨fun p hp => ?_, fun j hj => ?_⟩
  · obtain rfl := List.mem_singleton.mp hp
    rw [ht, getFlag_setFlag _ _ _ _ hn, if_pos rfl]
  · rw [ht]
    exact agreeOutside_setFlag s.flags b hn j hj

theorem bne_zero_eq_decide (w : Word) : (w != 0) = decide (w.toNat ≠ 0) := by
  rw [bne, beq_zero_eq_decide, decide_not]

/-! The meaning of the two instructions, each outcome of the checks once. -/

theorem exec_getf (s : State) (r : Reg) (k : Half) :
    exec (.getf r k) s =
      withFlagIndex s k (withDest s r (.next (s.setVal r (if getFlag s.flags k.toNat then 1 else 0)).advance)) := rfl

theorem exec_setf (s : State) (r : Reg) (k : Half) :
    exec (.setf r k) s =
      withFlagIndex s k (withVal s r fun w => .next (s.setFlags (setFlag s.flags k.toNat (w != 0))).advance) := rfl

/-- R240: an index above 15 faults, whatever the rest of the instruction is. -/
theorem raises_flagIndex {i : Instr} {rest : Result} (hexec : exec i s = withFlagIndex s k rest) (hk : 15 < k.toNat) :
    Raises i s .illegalOperand k :=
  hexec.trans (withFlagIndex_illegal (Nat.not_le_of_lt hk) rest)

/-- R241 -/
theorem exec_getf_inRange (hk : k.toNat ≤ 15) (hr : wordInRange (s.reg r)) :
    exec (.getf r k) s = .next (s.setVal r (if getFlag s.flags k.toNat then 1 else 0)).advance := by
  rw [exec_getf, withFlagIndex_legal hk, withDest_inRange hr]

theorem raises_getf_dest (hk : k.toNat ≤ 15) (hr : ¬ wordInRange (s.reg r)) :
    Raises (.getf r k) s .memBounds (s.reg r) := by
  rw [Raises, exec_getf, withFlagIndex_legal hk, withDest_outOfRange hr]
  rfl

/-- R242 -/
theorem exec_setf_inRange (hk : k.toNat ≤ 15) (hr : wordInRange (s.reg r)) :
    exec (.setf r k) s = .next (s.setFlags (setFlag s.flags k.toNat (s.val r != 0))).advance := by
  rw [exec_setf, withFlagIndex_legal hk, withVal_inRange hr]

theorem raises_setf_source (hk : k.toNat ≤ 15) (hr : ¬ wordInRange (s.reg r)) :
    Raises (.setf r k) s .memBounds (s.reg r) := by
  rw [Raises, exec_setf, withFlagIndex_legal hk, withVal_outOfRange hr]
  rfl

end flagTransfer

/-! The obligations. -/

/-- Settles O44: the flag's Word is a result stored with the flag register as it was. -/
theorem getfStoresFlag : Obligations.GetfStoresFlag := by
  refine ⟨encodesB_of_hasOperands (by decide) (fun _ _ => rfl) fun _ _ => ⟨s1_formatB _ _ _, a16_formatB _ _ _⟩,
    fun s r k => raises_flagIndex (exec_getf s r k), fun _ _ _ => raises_getf_dest, fun s r k hwf hk hr => ?_⟩
  have hflags : FlagsBecome s (s.setFlags s.flags) [] := flagsBecome_nil rfl
  exact ⟨_, exec_getf_inRange hk hr, resultStored_setVal _ hwf hr hflags⟩

/-- Settles O45: the state differs from the one before in the flag register, one bit of it, and `pc`. -/
theorem setfAssignsFlag : Obligations.SetfAssignsFlag := by
  refine ⟨encodesB_of_hasOperands (by decide) (fun _ _ => rfl) fun _ _ => ⟨s1_formatB _ _ _, a16_formatB _ _ _⟩,
    fun s r k => raises_flagIndex (exec_setf s r k), fun _ _ _ => raises_setf_source, fun s r k hk hr => ?_⟩
  have hflag : FlagsBecome s (s.setFlags (setFlag s.flags k.toNat (s.val r != 0))).advance
      [(k.toNat, decide ((s.val r).toNat ≠ 0))] := by
    rw [← bne_zero_eq_decide]
    exact flagsBecome_setFlag (Nat.lt_succ_of_le hk) rfl
  exact ⟨_, exec_setf_inRange hk hr, hflag, fun _ => rfl, fun _ => rfl, ⟨rfl, rfl, rfl, rfl⟩, rfl⟩

end Sys2Proof.Proofs
end

section
/-! The family of 47_call_return.md: `CALL` and `RET` (R250 to R254). Each is said once by its next state; a sequence of calls or
returns is then that state function repeated, and what the returns answer is the list of ring entries below `SP`, which the
calls have filled. -/

namespace Sys2Proof.Proofs

open Sys2Proof.Machine Sys2Proof.Claims

section callReturn
variable {s : State}

/-! The next state of the two instructions: their net effect, R254. -/

/-- The state after `CALL`: the next address pushed, `pc` at the target. -/
def afterCall (s : State) (addr : Half) : State := (s.push (s.pc + 2)).setPc addr

/-- The state after `RET`: `pc` at the address popped. -/
def afterRet (s : State) : State := s.pop.2.setPc s.pop.1

/-- R251: the loop's advance undoes the subtraction. -/
theorem exec_call (s : State) (addr : Half) : exec (.call addr) s = .next (afterCall s addr) := by
  have hpc : addr - 2 + 2 = addr := BitVec.sub_add_cancel addr 2
  exact congrArg (fun pc => Host.Outcome.next ((s.push (s.pc + 2)).setPc pc)) hpc

/-- R252 -/
theorem exec_ret (s : State) : exec .ret s = .next (afterRet s) := by
  have hpc : s.pop.1 - 2 + 2 = s.pop.1 := BitVec.sub_add_cancel s.pop.1 2
  exact congrArg (fun pc => Host.Outcome.next (s.pop.2.setPc pc)) hpc

@[simp] theorem afterCall_pc (s : State) (addr : Half) : (afterCall s addr).pc = addr := rfl
@[simp] theorem afterCall_sp (s : State) (addr : Half) : (afterCall s addr).sp = s.sp + 1 := rfl
@[simp] theorem afterCall_mem (s : State) (addr : Half) : (afterCall s addr).mem = s.mem := rfl
@[simp] theorem afterCall_flags (s : State) (addr : Half) : (afterCall s addr).flags = s.flags := rfl

theorem afterCall_reg (s : State) (addr : Half) (j : Reg) :
    (afterCall s addr).reg j = if j = ringSlot s.sp then s.pc + 2 else s.reg j :=
  State.push_reg s (s.pc + 2) j

@[simp] theorem afterRet_sp (s : State) : (afterRet s).sp = s.sp - 1 := rfl
@[simp] theorem afterRet_mem (s : State) : (afterRet s).mem = s.mem := rfl
@[simp] theorem afterRet_flags (s : State) : (afterRet s).flags = s.flags := rfl
@[simp] theorem afterRet_reg (s : State) (j : Reg) : (afterRet s).reg j = s.reg j := rfl

/-- The registers `x[240 + SP]` as the statements write them. -/
theorem eq_ringSlot_iff {j : Reg} {p : BitVec 4} : j = ringSlot p ↔ j.toNat = 240 + p.toNat := by
  rw [← BitVec.toNat_inj, ringSlot_toNat]

/-! Sequences of calls. -/

theorem callAll_eq (targets : List Half) (s : State) : callAll targets s = some (targets.foldl afterCall s) := by
  induction targets generalizing s with
  | nil => rfl
  | cons target rest ih => simp only [callAll, exec_call, ih, List.foldl_cons]

theorem foldl_afterCall_sp (targets : List Half) (s : State) :
    (targets.foldl afterCall s).sp = s.sp + BitVec.ofNat 4 targets.length := by
  induction targets generalizing s with
  | nil => exact (BitVec.add_zero s.sp).symm
  | cons target rest ih =>
    rw [List.foldl_cons, ih, afterCall_sp, List.length_cons]
    bv_omega

theorem foldl_afterCall_mem (targets : List Half) (s : State) : (targets.foldl afterCall s).mem = s.mem := by
  induction targets generalizing s with
  | nil => rfl
  | cons target rest ih => rw [List.foldl_cons, ih, afterCall_mem]

theorem foldl_afterCall_flags (targets : List Half) (s : State) : (targets.foldl afterCall s).flags = s.flags := by
  induction targets generalizing s with
  | nil => rfl
  | cons target rest ih => rw [List.foldl_cons, ih, afterCall_flags]

/-- Calls write the slots from `SP` upward, one each: a slot at least as many places above `SP` as there are calls is kept. -/
theorem foldl_afterCall_reg_of_le {targets : List Half} {q : BitVec 4} (hq : targets.length ≤ (q - s.sp).toNat) :
    (targets.foldl afterCall s).reg (ringSlot q) = s.reg (ringSlot q) := by
  induction targets generalizing s with
  | nil => rfl
  | cons target rest ih =>
    rw [List.length_cons] at hq
    have hne : q ≠ s.sp := by
      rintro rfl
      rw [BitVec.sub_self] at hq
      exact absurd hq (Nat.not_succ_le_zero _)
    have hrest : rest.length ≤ (q - (afterCall s target).sp).toNat := by
      rw [afterCall_sp]
      bv_omega
    rw [List.foldl_cons, ih hrest, afterCall_reg, if_neg (mt (ringSlot_inj q s.sp).mp hne)]

/-! Sequences of returns. -/

/-- The ring entry `k` places below the top one: what the return after `k` others pops. -/
def ringEntry (s : State) (k : Nat) : Half := s.reg (ringSlot (s.sp - BitVec.ofNat 4 (k + 1)))

/-- A return uncovers the next entry and erases none (R250). -/
theorem ringEntry_afterRet (s : State) (k : Nat) : ringEntry (afterRet s) k = ringEntry s (k + 1) := by
  have hslot : s.sp - 1 - BitVec.ofNat 4 (k + 1) = s.sp - BitVec.ofNat 4 (k + 1 + 1) := by bv_omega
  rw [ringEntry, afterRet_reg, afterRet_sp, hslot, ringEntry]

/-- The ring holds 16 entries; the next one down is the top one again. -/
theorem ringEntry_sixteen (s : State) : ringEntry s 16 = ringEntry s 0 := by
  have hwrap : BitVec.ofNat 4 (16 + 1) = BitVec.ofNat 4 (0 + 1) := by decide
  rw [ringEntry, hwrap, ringEntry]

theorem returnAll_eq (n : Nat) (s : State) : returnAll n s = some ((List.range n).map (ringEntry s), afterRet^[n] s) := by
  induction n generalizing s with
  | zero => rfl
  | succ n ih =>
    have hentries : (List.range (n + 1)).map (ringEntry s) = (afterRet s).pc :: (List.range n).map (ringEntry (afterRet s)) := by
      rw [List.range_succ_eq_map, List.map_cons, List.map_map]
      exact congrArg _ (List.map_congr_left fun k _ => (ringEntry_afterRet s k).symm)
    simp only [returnAll, exec_ret, ih, hentries, Function.iterate_succ_apply]

theorem iterate_afterRet_sp (n : Nat) (s : State) : (afterRet^[n] s).sp = s.sp - BitVec.ofNat 4 n := by
  induction n generalizing s with
  | zero => exact (BitVec.sub_zero s.sp).symm
  | succ n ih =>
    rw [Function.iterate_succ_apply, ih, afterRet_sp]
    bv_omega

theorem iterate_afterRet_mem (n : Nat) (s : State) : (afterRet^[n] s).mem = s.mem := by
  induction n generalizing s with
  | zero => rfl
  | succ n ih => rw [Function.iterate_succ_apply, ih, afterRet_mem]

theorem iterate_afterRet_flags (n : Nat) (s : State) : (afterRet^[n] s).flags = s.flags := by
  induction n generalizing s with
  | zero => rfl
  | succ n ih => rw [Function.iterate_succ_apply, ih, afterRet_flags]

/-- R253: as long as the ring does not wrap, calls leave their return addresses below `SP`, the innermost on top. -/
theorem ringEntries_foldl_afterCall {targets : List Half} (h : targets.length ≤ 16) :
    (List.range targets.length).map (ringEntry (targets.foldl afterCall s)) = (returnAddresses s.pc targets).reverse := by
  induction targets generalizing s with
  | nil => rfl
  | cons target rest ih =>
    rw [List.length_cons] at h
    have hslot : (rest.foldl afterCall (afterCall s target)).sp - BitVec.ofNat 4 (rest.length + 1) = s.sp := by
      rw [foldl_afterCall_sp, afterCall_sp]
      bv_omega
    have hkept : rest.length ≤ (s.sp - (afterCall s target).sp).toNat := by
      rw [afterCall_sp]
      bv_omega
    have houter : ringEntry (rest.foldl afterCall (afterCall s target)) rest.length = s.pc + 2 := by
      rw [ringEntry, hslot, foldl_afterCall_reg_of_le hkept, afterCall_reg, if_pos rfl]
    rw [List.foldl_cons, List.length_cons, List.range_succ, List.map_append, ih (Nat.le_of_succ_le h), afterCall_pc,
      List.map_singleton, houter, returnAddresses, List.reverse_cons]

end callReturn

/-! The obligations. -/

/-- Settles O46: the register written is the one at `SP` before the call. -/
theorem callPushesReturn : Obligations.CallPushesReturn := by
  refine ⟨encodesB_of_hasOperands (by decide) (fun _ _ => rfl) fun _ _ => a16_formatB _ _ _,
    fun s addr => ⟨_, exec_call s addr, rfl, fun j => ?_, BitVec.toNat_add s.sp 1, fun _ => rfl,
      flagsBecome_nil rfl, rfl, rfl, rfl⟩⟩
  simp only [afterCall_reg, eq_ringSlot_iff]

/-- Settles O47: the slot read is the one at `SP` after the return. -/
theorem retPopsReturn : Obligations.RetPopsReturn := by
  refine ⟨encodesA_of_hasOperands (by decide) (fun _ _ _ => rfl) fun _ _ _ => trivial,
    fun s => ⟨_, exec_ret s, ?_, fun j hj => ?_, fun _ => rfl, fun _ => rfl, flagsBecome_nil rfl, rfl, rfl, rfl⟩⟩
  · rw [afterRet_sp]
    bv_omega
  · obtain rfl : j = ringSlot (afterRet s).sp := eq_ringSlot_iff.mpr hj
    rfl

/-- Settles O48: the returns pop what the calls left below `SP`. -/
theorem nestedCallsReturn : Obligations.NestedCallsReturn := by
  intro s targets h
  refine ⟨_, _, _, callAll_eq targets s, returnAll_eq _ _, ringEntries_foldl_afterCall h, ?_, ?_, fun _ => ?_,
    flagsBecome_nil ?_⟩
  · rw [iterate_afterRet_sp, foldl_afterCall_sp, BitVec.add_sub_cancel]
  · rw [foldl_afterCall_sp]
    bv_omega
  · rw [iterate_afterRet_mem, foldl_afterCall_mem]
  · rw [iterate_afterRet_flags, foldl_afterCall_flags]

/-- Settles O49: calls 2 to 17 fill the ring from the state after call 1, and the 17th return pops the top entry once more. -/
theorem seventeenthCallLosesFirst : Obligations.SeventeenthCallLosesFirst := by
  intro s first rest h
  refine ⟨_, _, _, callAll_eq (first :: rest) s, returnAll_eq 17 _, ?_⟩
  rw [List.foldl_cons]
  have hring : (List.range 16).map (ringEntry (rest.foldl afterCall (afterCall s first))) =
      (returnAddresses first rest).reverse := h ▸ ringEntries_foldl_afterCall h.le
  have htop : ringEntry (rest.foldl afterCall (afterCall s first)) 0 = (returnAddresses first rest).getLastD 0 := by
    rw [List.getLastD_eq_getLast?, ← List.head?_reverse, ← hring]
    rfl
  rw [List.range_succ, List.map_append, hring, List.map_singleton, ringEntry_sixteen, htop]

end Sys2Proof.Proofs
end

section
/-! The family of 48_console_io.md: the console reads and prints (R260 to R272). The three reads are one shape, and so are the three
prints; each outcome of a shape is said once, and an instruction is then its opcode and its kind. -/

namespace Sys2Proof.Proofs

open Sys2Proof.Machine Sys2Proof.Claims

section console
variable {s : State} {r : Reg} {rest : List Token}

/-! The outcomes of a read (R262), beside the one that waits (`consoleRead_blocked`). -/

/-- The destination is checked before the port is asked: what `IN` holds does not matter. -/
theorem consoleRead_outOfRange (hr : ¬ wordInRange (s.reg r)) :
    consoleRead r s = .next (s.takeFault .memBounds (s.reg r)) :=
  withDest_outOfRange hr _

theorem consoleRead_bad (hr : wordInRange (s.reg r)) (hin : s.input = .bad :: rest) :
    consoleRead r s = .next (s.takeFault .inputError 0) := by
  rw [consoleRead, withDest_inRange hr, hin, raise_eq]

theorem consoleRead_ok {w : Word} (hr : wordInRange (s.reg r)) (hin : s.input = .ok w :: rest) :
    consoleRead r s = .next ((s.setInput rest).setVal r w).advance := by
  rw [consoleRead, withDest_inRange hr, hin]

/-! The outcomes of a print (R267). -/

theorem consolePrint_inRange (k : Kind) (hr : wordInRange (s.reg r)) :
    consolePrint k r s = .next (s.setOutput (s.output ++ [⟨k, s.val r⟩])).advance :=
  withVal_inRange hr _

theorem consolePrint_outOfRange (k : Kind) (hr : ¬ wordInRange (s.reg r)) :
    consolePrint k r s = .next (s.takeFault .memBounds (s.reg r)) :=
  withVal_outOfRange hr _

end console

/-! The shapes of the statements. -/

section shapes
variable {op : Nat} {i : Reg → Instr} {k : Kind}

/-- R89: an instruction with its register in `s3` and no other field. -/
theorem encodesA_of_slot3 (hop : op < 256 := by decide) (hcode : ∀ r, (i r).opcode = BitVec.ofNat 8 op := by intros; rfl)
    (hslot : ∀ w r, HasOperands w (i r) ↔ s3 w = r := by intros; rfl) : EncodesA op (fun _ _ f3 => i f3) :=
  encodesA_of_hasOperands hop (fun _ _ => hcode) fun f1 f2 f3 => (hslot _ f3).mpr (s3_formatA _ f1 f2 f3)

/-- R262: an instruction that asks for a token, of whatever kind, is a console read. -/
theorem readInstruction_of_readKind (hkind : ∀ r, readKind (i r) = some (k, r)) (henc : EncodesA op (fun _ _ f3 => i f3)) :
    ReadInstruction op i := by
  have hexec (r : Reg) (s : State) : exec (i r) s = consoleRead r s := exec_of_readKind s (hkind r)
  refine ⟨henc, fun s r hr => ?_, fun s r hr hin => ?_, fun s r rest hr hin => ?_, fun s r w rest hwf hr hin => ?_⟩
  · exact (hexec r s).trans (consoleRead_outOfRange hr)
  · exact (hexec r s).trans (consoleRead_blocked hr hin)
  · exact (hexec r s).trans (consoleRead_bad hr hin)
  · exact ⟨_, (hexec r s).trans (consoleRead_ok hr hin), storesWord_of_mem hwf hr rfl, rfl, flagsBecome_nil rfl,
      fun _ => rfl, rfl, rfl, rfl, rfl⟩

/-- R267 -/
theorem printInstruction_of_consolePrint (hexec : ∀ r s, exec (i r) s = consolePrint k r s)
    (henc : EncodesA op (fun _ _ f3 => i f3)) : PrintInstruction op i k := by
  refine ⟨henc, fun s r hr => ?_, fun s r hr => ?_⟩
  · exact (hexec r s).trans (consolePrint_outOfRange k hr)
  · exact ⟨_, (hexec r s).trans (consolePrint_inRange k hr), rfl, flagsBecome_nil rfl, fun _ => rfl, fun _ => rfl, rfl, rfl,
      rfl, rfl⟩

end shapes

/-! The obligations. -/

/-- Settles O50: what tells the three reads apart, their opcode and the kind they ask for, does not change what they do. -/
theorem consoleReads : Obligations.ConsoleReads :=
  ⟨readInstruction_of_readKind (fun _ => rfl) encodesA_of_slot3,
    readInstruction_of_readKind (fun _ => rfl) encodesA_of_slot3,
    readInstruction_of_readKind (fun _ => rfl) encodesA_of_slot3⟩

/-- Settles O51: a print's kind goes into its event and nowhere else. -/
theorem consolePrints : Obligations.ConsolePrints :=
  ⟨printInstruction_of_consolePrint (fun _ _ => rfl) encodesA_of_slot3,
    printInstruction_of_consolePrint (fun _ _ => rfl) encodesA_of_slot3,
    printInstruction_of_consolePrint (fun _ _ => rfl) encodesA_of_slot3⟩

end Sys2Proof.Proofs
end

section
/-! The family of 70_reset_and_hazards.md, with the sample Words of 95_test_vectors.md: the host's acts (R320 to R323), each told
where it is refused, by its effect, and turned round; from them, with the step, the invariant of every move. -/

namespace Sys2Proof.Proofs

open Sys2Proof.Machine Sys2Proof.Claims

section host
variable {s t : State} {addr entry : Half} {w : Word}

/-! When the host may act (R320). -/

theorem idle_iff : s.idle = true ↔ s.run ≠ .running := by
  unfold State.idle
  cases s.run <;> simp

theorem not_idle_of_running (h : s.run = .running) : ¬ s.idle = true :=
  fun hidle => idle_iff.mp hidle h

/-! The acts while the core runs: each is refused. -/

theorem hostWriteWord_of_running (addr : Half) (w : Word) (h : s.run = .running) :
    hostWriteWord s addr w = .refused .hostWhileRunning :=
  if_neg (not_idle_of_running h)

theorem hostReadWord_of_running (addr : Half) (h : s.run = .running) :
    hostReadWord s addr = .refused .hostWhileRunning :=
  if_neg (not_idle_of_running h)

theorem hostClear_of_running (h : s.run = .running) : hostClear s = .refused .hostWhileRunning :=
  if_neg (not_idle_of_running h)

theorem hostStart_of_running (entry : Half) (h : s.run = .running) :
    hostStart s entry = .refused .hostWhileRunning :=
  if_neg (not_idle_of_running h)

theorem hostReset_of_running (h : s.run = .running) : hostReset s = .refused .hostWhileRunning :=
  if_neg (not_idle_of_running h)

/-! The acts while it does not (R321 to R323). -/

section idle
variable (h : s.run ≠ .running)
include h

theorem hostWriteWord_inRange (w : Word) (ha : wordInRange addr) :
    hostWriteWord s addr w = .next (s.setMem (s.mem.setWord addr w)) := by
  rw [hostWriteWord, if_pos (idle_iff.mpr h), memWrite_of_inRange _ w ha]

theorem hostWriteWord_outOfRange (w : Word) (ha : ¬ wordInRange addr) :
    hostWriteWord s addr w = .refused .hostAddress := by
  rw [hostWriteWord, if_pos (idle_iff.mpr h), memWrite_of_not_inRange _ w ha]

theorem hostReadWord_inRange (ha : wordInRange addr) : hostReadWord s addr = .next (s.mem.word addr) := by
  rw [hostReadWord, if_pos (idle_iff.mpr h), memRead_of_inRange _ ha]

theorem hostReadWord_outOfRange (ha : ¬ wordInRange addr) : hostReadWord s addr = .refused .hostAddress := by
  rw [hostReadWord, if_pos (idle_iff.mpr h), memRead_of_not_inRange _ ha]

theorem hostClear_of_idle : hostClear s = .next (s.setMem []) :=
  if_pos (idle_iff.mpr h)

theorem hostStart_of_idle (entry : Half) : hostStart s entry = .next ((s.setPc entry).setRun .running) :=
  if_pos (idle_iff.mpr h)

theorem hostReset_of_idle : hostReset s = .next (State.reset.setInput s.input) :=
  if_pos (idle_iff.mpr h)

end idle

/-! The acts turned round: where one is performed, what it did. -/

theorem hostWriteWord_cases (h : hostWriteWord s addr w = .next t) :
    wordInRange addr ∧ t = s.setMem (s.mem.setWord addr w) := by
  by_cases hrun : s.run = .running
  · cases (hostWriteWord_of_running addr w hrun).symm.trans h
  by_cases ha : wordInRange addr
  · exact ⟨ha, Host.Outcome.next.inj (h.symm.trans (hostWriteWord_inRange hrun w ha))⟩
  · cases (hostWriteWord_outOfRange hrun w ha).symm.trans h

theorem eq_of_hostClear (h : hostClear s = .next t) : t = s.setMem [] := by
  by_cases hrun : s.run = .running
  · cases (hostClear_of_running hrun).symm.trans h
  · exact Host.Outcome.next.inj (h.symm.trans (hostClear_of_idle hrun))

theorem eq_of_hostStart (h : hostStart s entry = .next t) : t = (s.setPc entry).setRun .running := by
  by_cases hrun : s.run = .running
  · cases (hostStart_of_running entry hrun).symm.trans h
  · exact Host.Outcome.next.inj (h.symm.trans (hostStart_of_idle hrun entry))

theorem eq_of_hostReset (h : hostReset s = .next t) : t = State.reset.setInput s.input := by
  by_cases hrun : s.run = .running
  · cases (hostReset_of_running hrun).symm.trans h
  · exact Host.Outcome.next.inj (h.symm.trans (hostReset_of_idle hrun))

/-! The invariant over the moves. -/

/-- The fault record is `RUN` and `pc`; memory is not in it. -/
@[simp] theorem setMem_recordWf (s : State) (m : Memory) : (s.setMem m).recordWf = s.recordWf := rfl

/-- The invariant says nothing of `IN`. -/
@[simp] theorem setInput_wf (s : State) (ts : List Token) : (s.setInput ts).wf = s.wf := rfl

/-- R281, R285, R320: one case per move; a step is O52. -/
theorem move_keeps_wf (hwf : s.wf = true) (m : Move s t) : t.wf = true := by
  obtain ⟨hmem, hrec⟩ := wf_iff.mp hwf
  cases m with
  | step h => exact stepKeepsInvariant s t hwf h
  | write addr w h =>
    obtain ⟨ha, rfl⟩ := hostWriteWord_cases h
    exact wf_iff.mpr ⟨Memory.wf_setWord hmem ha, (setMem_recordWf s _).trans hrec⟩
  | clear h =>
    obtain rfl := eq_of_hostClear h
    exact wf_iff.mpr ⟨Memory.wf_nil, (setMem_recordWf s []).trans hrec⟩
  | start entry h =>
    obtain rfl := eq_of_hostStart h
    exact wf_iff.mpr ⟨hmem, recordWf_of_running rfl⟩
  | reset h =>
    obtain rfl := eq_of_hostReset h
    exact (setInput_wf State.reset s.input).trans resetMeetsInvariant
  | input ts => exact (setInput_wf s (s.input ++ ts)).trans hwf

theorem reachable_wf (h : Reachable s) : s.wf = true := by
  induction h with
  | reset => exact resetMeetsInvariant
  | move _ hmove ih => exact move_keeps_wf ih hmove

/-! The first step after a start. -/

theorem step_of_hostStart_outOfRange (h : hostStart s entry = .next t) (hentry : ¬ wordInRange entry) :
    step t = .next (t.takeFault .fetchBounds entry) := by
  obtain rfl := eq_of_hostStart h
  exact step_of_fetchBounds rfl hentry

/-- `start` leaves memory as it was, so the Word fetched is the one that stood at the entry. -/
theorem step_of_hostStart {i : Instr} (h : hostStart s entry = .next t) (hentry : wordInRange entry)
    (hd : decode (s.word entry) = .ok i) : step t = exec i t := by
  obtain rfl := eq_of_hostStart h
  exact step_of_decode rfl hentry hd

end host

/-- R80 to R89: a Word that is an instruction's own decodes to it. -/
theorem decode_of_encode_eq {w : Word} {i : Instr} (hwf : i.wellFormed = true) (h : encode i = w) : decode w = .ok i :=
  h ▸ decode_encode hwf

/-! The obligations. -/

/-- Settles O54: every move keeps the invariant, and reset meets it. -/
theorem reachableStatesMeetInvariant : Obligations.ReachableStatesMeetInvariant :=
  ⟨fun _ _ => move_keeps_wf, fun _ => reachable_wf⟩

/-- Settles O59: the write is the Word write of R53 on an idle core, and the state written is as idle as before. -/
theorem hostMemoryAccess : Obligations.HostMemoryAccess := by
  refine ⟨fun s addr w hrun => ?_, fun s addr w hrun ha => ?_, fun s addr w hrun ha hwf => ?_, fun s hrun => ?_⟩
  · exact ⟨hostWriteWord_of_running addr w hrun, hostReadWord_of_running addr hrun, hostClear_of_running hrun⟩
  · have hout : ¬ wordInRange addr := Nat.not_le.mpr ha
    exact ⟨hostWriteWord_outOfRange hrun w hout, hostReadWord_outOfRange hrun hout⟩
  · have hidle : (s.setMem (s.mem.setWord addr w)).run ≠ .running := hrun
    have hread : hostReadWord (s.setMem (s.mem.setWord addr w)) addr = .next w := by
      rw [hostReadWord_inRange hidle ha, State.setMem_mem, Memory.word_setWord_self hwf ha]
    exact ⟨_, hostWriteWord_inRange hrun w ha, hread, storesWord_of_mem hwf ha rfl, rfl⟩
  · exact ⟨_, hostClear_of_idle hrun, fun _ => rfl, rfl⟩

/-- Settles O60. -/
theorem hostStartRuns : Obligations.HostStartRuns :=
  ⟨fun _ entry hrun => hostStart_of_running entry hrun, fun _ entry hrun => hostStart_of_idle hrun entry,
    fun _ _ _ h hentry => step_of_hostStart_outOfRange h (Nat.not_le.mpr hentry),
    fun _ _ _ _ h hentry hd => step_of_hostStart h hentry hd⟩

/-- Settles O7: each Word has 0 in the fields that do not count, so it is its instruction's own. -/
theorem sampleWordsDecode : Obligations.SampleWordsDecode := by
  unfold Obligations.SampleWordsDecode
  and_intros <;> exact decode_of_encode_eq rfl rfl

end Sys2Proof.Proofs
end
